-- ==== Sys2Proof/Word.lean ====
section
/-!
DEFINITION. The word types of the machine (spec/00_scope.md rules R7 to R9): every value is
unsigned, bit 0 is the least significant bit.
-/
namespace Sys2Proof

/-- 8 bits: a general register, a timer, a byte of memory. -/
abbrev Byte := BitVec 8

/-- 16 bits: pc, I, a stack entry, an opcode. -/
abbrev Word := BitVec 16

/-- The 12-bit address immediate NNN (R71). -/
abbrev Addr12 := BitVec 12

/-- The 4-bit fields d1 to d4 of an opcode (R71). -/
abbrev Nibble := BitVec 4

/-- The index of a general register, V0 to VF (R21). -/
abbrev Reg := Fin 16

/-- VF, register 15, which six instructions also write as a flag (R23). -/
abbrev regF : Reg := 15

/-- `zext_16` of R8. -/
def zext16 {n : Nat} (b : BitVec n) : Word := b.setWidth 16

end Sys2Proof
end

