-- ==== Sys2Proof/Syntax.lean ====
section
/-!
DEFINITION. The instructions: one constructor per row of spec/opcode_table.json, in the order of
rule R75 of spec/30_encoding.md, its operand fields in the order of the pattern.
-/
namespace Sys2Proof

/-- The 32 instructions of R75. The fields are typed by their widths (R71, R73), except the row
count N of DXYN, which is a count and is bounded by `Instr.wf`. SHR and SHL carry the Y field of
their words, which they ignore (R77). -/
inductive Instr where
  /-- 0000 NOP -/
  | nop
  /-- 00E0 CLS -/
  | cls
  /-- 00EE RET -/
  | ret
  /-- 1NNN JP NNN -/
  | jp (nnn : Addr12)
  /-- 2NNN CALL NNN -/
  | call (nnn : Addr12)
  /-- 3XNN SE VX, NN -/
  | seImm (x : Reg) (nn : Byte)
  /-- 4XNN SNE VX, NN -/
  | sneImm (x : Reg) (nn : Byte)
  /-- 5XY0 SE VX, VY -/
  | seReg (x y : Reg)
  /-- 6XNN LD VX, NN -/
  | ldImm (x : Reg) (nn : Byte)
  /-- 7XNN ADD VX, NN -/
  | addImm (x : Reg) (nn : Byte)
  /-- 8XY0 LD VX, VY -/
  | ldReg (x y : Reg)
  /-- 8XY1 OR VX, VY -/
  | orReg (x y : Reg)
  /-- 8XY2 AND VX, VY -/
  | andReg (x y : Reg)
  /-- 8XY3 XOR VX, VY -/
  | xorReg (x y : Reg)
  /-- 8XY4 ADD VX, VY -/
  | addReg (x y : Reg)
  /-- 8XY5 SUB VX, VY -/
  | subReg (x y : Reg)
  /-- 8XY6 SHR VX (Y ignored) -/
  | shr (x y : Reg)
  /-- 8XY7 SUBN VX, VY -/
  | subnReg (x y : Reg)
  /-- 8XYE SHL VX (Y ignored) -/
  | shl (x y : Reg)
  /-- 9XY0 SNE VX, VY -/
  | sneReg (x y : Reg)
  /-- ANNN LD I, NNN -/
  | ldIndex (nnn : Addr12)
  /-- BNNN JP V0, NNN -/
  | jpV0 (nnn : Addr12)
  /-- CXNN RND VX, NN -/
  | rnd (x : Reg) (nn : Byte)
  /-- DXYN DRW VX, VY, N -/
  | drw (x y : Reg) (n : Nat)
  /-- EX9E SKP VX -/
  | skp (x : Reg)
  /-- EXA1 SKNP VX -/
  | sknp (x : Reg)
  /-- FX07 LD VX, DT -/
  | ldFromDelay (x : Reg)
  /-- FX0A LD VX, K -/
  | ldKey (x : Reg)
  /-- FX15 LD DT, VX -/
  | ldDelay (x : Reg)
  /-- FX18 LD ST, VX -/
  | ldSound (x : Reg)
  /-- FX1E ADD I, VX -/
  | addIndex (x : Reg)
  /-- FX29 LD F, VX -/
  | ldFont (x : Reg)
  deriving DecidableEq, Repr

end Sys2Proof
end

