-- ==== Sys2Proof/WellFormed.lean ====
section
/-!
DEFINITION. Which terms of `Instr` are instructions. The widths of X, Y, NN and NNN are in their
types; what is left to check is the row count N of DXYN, a 4-bit field (spec/30_encoding.md rules
R71 and R73: "`N` is an unsigned count 0..15").
-/
namespace Sys2Proof

/-- The check on the row count of DXYN. -/
def rowCountOk (n : Nat) : Bool := decide (n < 16)

/-- The instruction can be written as a word: every operand fits its field. -/
def Instr.wf : Instr → Bool
  | .drw _ _ n => rowCountOk n
  | .nop | .cls | .ret => true
  | .jp _ | .call _ | .ldIndex _ | .jpV0 _ => true
  | .seImm _ _ | .sneImm _ _ | .ldImm _ _ | .addImm _ _ | .rnd _ _ => true
  | .seReg _ _ | .sneReg _ _ | .ldReg _ _ | .orReg _ _ | .andReg _ _ | .xorReg _ _ => true
  | .addReg _ _ | .subReg _ _ | .shr _ _ | .subnReg _ _ | .shl _ _ => true
  | .skp _ | .sknp _ | .ldFromDelay _ | .ldKey _ => true
  | .ldDelay _ | .ldSound _ | .addIndex _ | .ldFont _ => true

end Sys2Proof
end

