-- ==== Sys2Proof/Decode.lean ====
section
/-!
DEFINITION. Decoding and encoding (spec/30_encoding.md rules R70 to R78; spec/20_memory.md rule R55
for the byte order). Decoding is total: a word is one of the 32 rows of R75 or is illegal in one of
the groups of R76.
-/
namespace Sys2Proof

/-- Why bytes are no instruction: there are fewer than two of them, or the word stands in a group of
R76, named by its leading nibble. The names are the model's (log entry 14). -/
inductive IllegalGroup where
  /-- fewer than two bytes -/
  | truncated
  /-- 0NNN except 0000, 00E0, 00EE -/
  | group0
  /-- 5XYn with n not 0 -/
  | group5
  /-- 8XYn with n in 8, 9, A, B, C, D, F -/
  | group8
  /-- 9XYn with n not 0 -/
  | group9
  /-- EXnn with nn not 9E or A1 -/
  | groupE
  /-- FXnn with nn not 07, 0A, 15, 18, 1E, 29 -/
  | groupF
  deriving DecidableEq, Repr

/-- What decoding gives: an instruction, or the reason there is none. -/
inductive Decoded where
  | instr (i : Instr)
  | illegal (g : IllegalGroup)
  deriving DecidableEq, Repr

/-! ### Fields of an opcode (R71) -/

/-- d1, bits 15..12. -/
def fieldD1 (op : Word) : Nibble := op.extractLsb' 12 4

/-- X (d2), bits 11..8. -/
def fieldX (op : Word) : Reg := (op.extractLsb' 8 4).toFin

/-- Y (d3), bits 7..4. -/
def fieldY (op : Word) : Reg := (op.extractLsb' 4 4).toFin

/-- N (d4), bits 3..0. -/
def fieldN (op : Word) : Nibble := op.extractLsb' 0 4

/-- NN, bits 7..0. -/
def fieldNN (op : Word) : Byte := op.extractLsb' 0 8

/-- NNN, bits 11..0. -/
def fieldNNN (op : Word) : Addr12 := op.extractLsb' 0 12

/-! ### Decoding (R74, R75, R76) -/

/-- The words with d1 = 0: chosen by the whole word. -/
def decodeGroup0 (op : Word) : Decoded :=
  if op = 0x0000#16 then .instr .nop
  else if op = 0x00E0#16 then .instr .cls
  else if op = 0x00EE#16 then .instr .ret
  else .illegal .group0

/-- The words with d1 = 8: chosen by d4. -/
def decodeGroup8 (op : Word) : Decoded :=
  match (fieldN op).toNat with
  | 0x0 => .instr (.ldReg (fieldX op) (fieldY op))
  | 0x1 => .instr (.orReg (fieldX op) (fieldY op))
  | 0x2 => .instr (.andReg (fieldX op) (fieldY op))
  | 0x3 => .instr (.xorReg (fieldX op) (fieldY op))
  | 0x4 => .instr (.addReg (fieldX op) (fieldY op))
  | 0x5 => .instr (.subReg (fieldX op) (fieldY op))
  | 0x6 => .instr (.shr (fieldX op) (fieldY op))
  | 0x7 => .instr (.subnReg (fieldX op) (fieldY op))
  | 0xE => .instr (.shl (fieldX op) (fieldY op))
  | _ => .illegal .group8

/-- The words with d1 = E: chosen by the low byte. -/
def decodeGroupE (op : Word) : Decoded :=
  if fieldNN op = 0x9E#8 then .instr (.skp (fieldX op))
  else if fieldNN op = 0xA1#8 then .instr (.sknp (fieldX op))
  else .illegal .groupE

/-- The words with d1 = F: chosen by the low byte. -/
def decodeGroupF (op : Word) : Decoded :=
  if fieldNN op = 0x07#8 then .instr (.ldFromDelay (fieldX op))
  else if fieldNN op = 0x0A#8 then .instr (.ldKey (fieldX op))
  else if fieldNN op = 0x15#8 then .instr (.ldDelay (fieldX op))
  else if fieldNN op = 0x18#8 then .instr (.ldSound (fieldX op))
  else if fieldNN op = 0x1E#8 then .instr (.addIndex (fieldX op))
  else if fieldNN op = 0x29#8 then .instr (.ldFont (fieldX op))
  else .illegal .groupF

/-- The instruction an opcode selects (R74): by d1, then within the groups 0, 5, 8, 9, E and F. -/
def decode (op : Word) : Decoded :=
  match (fieldD1 op).toNat with
  | 0x0 => decodeGroup0 op
  | 0x1 => .instr (.jp (fieldNNN op))
  | 0x2 => .instr (.call (fieldNNN op))
  | 0x3 => .instr (.seImm (fieldX op) (fieldNN op))
  | 0x4 => .instr (.sneImm (fieldX op) (fieldNN op))
  | 0x5 => if fieldN op = 0#4 then .instr (.seReg (fieldX op) (fieldY op)) else .illegal .group5
  | 0x6 => .instr (.ldImm (fieldX op) (fieldNN op))
  | 0x7 => .instr (.addImm (fieldX op) (fieldNN op))
  | 0x8 => decodeGroup8 op
  | 0x9 => if fieldN op = 0#4 then .instr (.sneReg (fieldX op) (fieldY op)) else .illegal .group9
  | 0xA => .instr (.ldIndex (fieldNNN op))
  | 0xB => .instr (.jpV0 (fieldNNN op))
  | 0xC => .instr (.rnd (fieldX op) (fieldNN op))
  | 0xD => .instr (.drw (fieldX op) (fieldY op) (fieldN op).toNat)
  | 0xE => decodeGroupE op
  | _ => decodeGroupF op

/-- The opcode two bytes make: the byte at the lower address supplies bits 15..8 (R55). -/
def opcodeOf (hi lo : Byte) : Word := hi ++ lo

/-- Decoding of any bytes: the first two are the instruction (R70, R78). -/
def decodeBytes : List Byte → Decoded
  | hi :: lo :: _ => decode (opcodeOf hi lo)
  | [_] => .illegal .truncated
  | [] => .illegal .truncated

/-! ### Encoding (R72, R75) -/

/-- Format A: d1 NNN. -/
def formatA (d1 : Nibble) (nnn : Addr12) : Word := d1 ++ nnn

/-- Format I: d1 X NN. -/
def formatI (d1 : Nibble) (x : Reg) (nn : Byte) : Word :=
  (d1 ++ (BitVec.ofFin x : Nibble) : Byte) ++ nn

/-- Formats R and D: d1 X Y d4. -/
def formatR (d1 : Nibble) (x y : Reg) (d4 : Nibble) : Word :=
  (d1 ++ (BitVec.ofFin x : Nibble) : Byte) ++ ((BitVec.ofFin y : Nibble) ++ d4 : Byte)

/-- The word of an instruction. (A row count that is not well formed keeps its low four bits.) -/
def encode : Instr → Word
  | .nop => 0x0000#16
  | .cls => 0x00E0#16
  | .ret => 0x00EE#16
  | .jp nnn => formatA 0x1#4 nnn
  | .call nnn => formatA 0x2#4 nnn
  | .seImm x nn => formatI 0x3#4 x nn
  | .sneImm x nn => formatI 0x4#4 x nn
  | .seReg x y => formatR 0x5#4 x y 0x0#4
  | .ldImm x nn => formatI 0x6#4 x nn
  | .addImm x nn => formatI 0x7#4 x nn
  | .ldReg x y => formatR 0x8#4 x y 0x0#4
  | .orReg x y => formatR 0x8#4 x y 0x1#4
  | .andReg x y => formatR 0x8#4 x y 0x2#4
  | .xorReg x y => formatR 0x8#4 x y 0x3#4
  | .addReg x y => formatR 0x8#4 x y 0x4#4
  | .subReg x y => formatR 0x8#4 x y 0x5#4
  | .shr x y => formatR 0x8#4 x y 0x6#4
  | .subnReg x y => formatR 0x8#4 x y 0x7#4
  | .shl x y => formatR 0x8#4 x y 0xE#4
  | .sneReg x y => formatR 0x9#4 x y 0x0#4
  | .ldIndex nnn => formatA 0xA#4 nnn
  | .jpV0 nnn => formatA 0xB#4 nnn
  | .rnd x nn => formatI 0xC#4 x nn
  | .drw x y n => formatR 0xD#4 x y (BitVec.ofNat 4 n)
  | .skp x => formatI 0xE#4 x 0x9E#8
  | .sknp x => formatI 0xE#4 x 0xA1#8
  | .ldFromDelay x => formatI 0xF#4 x 0x07#8
  | .ldKey x => formatI 0xF#4 x 0x0A#8
  | .ldDelay x => formatI 0xF#4 x 0x15#8
  | .ldSound x => formatI 0xF#4 x 0x18#8
  | .addIndex x => formatI 0xF#4 x 0x1E#8
  | .ldFont x => formatI 0xF#4 x 0x29#8

/-- The two bytes of a word in the order of their addresses, high byte first (R55). -/
def bytesOfWord (w : Word) : List Byte := [w.extractLsb' 8 8, w.extractLsb' 0 8]

/-! ### The opcode map as masks (R72, R75) -/

/-- The `(match, mask)` pair of an instruction's row of R75. -/
def Instr.row : Instr → Word × Word
  | .nop => (0x0000#16, 0xFFFF#16)
  | .cls => (0x00E0#16, 0xFFFF#16)
  | .ret => (0x00EE#16, 0xFFFF#16)
  | .jp _ => (0x1000#16, 0xF000#16)
  | .call _ => (0x2000#16, 0xF000#16)
  | .seImm _ _ => (0x3000#16, 0xF000#16)
  | .sneImm _ _ => (0x4000#16, 0xF000#16)
  | .seReg _ _ => (0x5000#16, 0xF00F#16)
  | .ldImm _ _ => (0x6000#16, 0xF000#16)
  | .addImm _ _ => (0x7000#16, 0xF000#16)
  | .ldReg _ _ => (0x8000#16, 0xF00F#16)
  | .orReg _ _ => (0x8001#16, 0xF00F#16)
  | .andReg _ _ => (0x8002#16, 0xF00F#16)
  | .xorReg _ _ => (0x8003#16, 0xF00F#16)
  | .addReg _ _ => (0x8004#16, 0xF00F#16)
  | .subReg _ _ => (0x8005#16, 0xF00F#16)
  | .shr _ _ => (0x8006#16, 0xF00F#16)
  | .subnReg _ _ => (0x8007#16, 0xF00F#16)
  | .shl _ _ => (0x800E#16, 0xF00F#16)
  | .sneReg _ _ => (0x9000#16, 0xF00F#16)
  | .ldIndex _ => (0xA000#16, 0xF000#16)
  | .jpV0 _ => (0xB000#16, 0xF000#16)
  | .rnd _ _ => (0xC000#16, 0xF000#16)
  | .drw _ _ _ => (0xD000#16, 0xF000#16)
  | .skp _ => (0xE09E#16, 0xF0FF#16)
  | .sknp _ => (0xE0A1#16, 0xF0FF#16)
  | .ldFromDelay _ => (0xF007#16, 0xF0FF#16)
  | .ldKey _ => (0xF00A#16, 0xF0FF#16)
  | .ldDelay _ => (0xF015#16, 0xF0FF#16)
  | .ldSound _ => (0xF018#16, 0xF0FF#16)
  | .addIndex _ => (0xF01E#16, 0xF0FF#16)
  | .ldFont _ => (0xF029#16, 0xF0FF#16)

/-! ### The opcode table's numbering of bits -/

/-- The word of an instruction whose `nbits` lowest bits are those of `w`, all others 0. -/
def wordOfTable (nbits w : Nat) : Word := BitVec.ofNat 16 (w % 2 ^ nbits)

/-- What the decoder reads from the bytes of that word, laid out as memory holds them. -/
def decodeTableWord (nbits w : Nat) : Option Instr :=
  match decodeBytes (bytesOfWord (wordOfTable nbits w)) with
  | .instr i => some i
  | .illegal _ => none

end Sys2Proof
end

