-- ==== Sys2Proof/Config.lean ====
section
/-!
DEFINITION. What the hardware is built with: the fixed constants of spec/00_scope.md rule R6, the
default table of its OPEN parameter FONT, and the free value behind `random_byte`.
-/
namespace Sys2Proof.Config

/-- `MEM_SIZE`: bytes of memory (R6, R50). -/
abbrev memSize : Nat := 4096

/-- `ROM_BASE`: where ROM bytes go and the reset value of pc (R6, R51). -/
abbrev romBase : Nat := 0x200

/-- `ROM_MAX`: the largest ROM in bytes (R6, R172). -/
abbrev romMax : Nat := 3584

/-- `FONT_LEN`: bytes of the font table, 16 glyphs of 5 bytes at `FONT_BASE` = 0 (R6, R51). -/
abbrev fontLen : Nat := 80

/-- `GLYPH_LEN`: bytes per glyph, the multiplier of FX29 (R6, R142). -/
abbrev glyphLen : Nat := 5

/-- `FB_W`: framebuffer width in pixels (R6, R34). -/
abbrev fbWidth : Nat := 64

/-- `FB_H`: framebuffer height in pixels (R6, R34). -/
abbrev fbHeight : Nat := 32

/-- `FB_LEN`: framebuffer entries (R6, R34). -/
abbrev fbLen : Nat := 2048

/-- The bytes of the font, in the order of their addresses (R51). -/
abbrev Font := Vector Byte fontLen

/-- The glyphs 0 to 7 of the default table of R52. PRESUMED (log entry 4). -/
def defaultGlyphsLow : List Byte :=
  [0xF0, 0x90, 0x90, 0x90, 0xF0] ++ [0x20, 0x60, 0x20, 0x20, 0x70] ++
  [0xF0, 0x10, 0xF0, 0x80, 0xF0] ++ [0xF0, 0x10, 0xF0, 0x10, 0xF0] ++
  [0x90, 0x90, 0xF0, 0x10, 0x10] ++ [0xF0, 0x80, 0xF0, 0x10, 0xF0] ++
  [0xF0, 0x80, 0xF0, 0x90, 0xF0] ++ [0xF0, 0x10, 0x20, 0x40, 0x40]

/-- The glyphs 8 to F of the default table of R52. PRESUMED (log entry 4). -/
def defaultGlyphsHigh : List Byte :=
  [0xF0, 0x90, 0xF0, 0x90, 0xF0] ++ [0xF0, 0x90, 0xF0, 0x10, 0xF0] ++
  [0xF0, 0x90, 0xF0, 0x90, 0x90] ++ [0xE0, 0x90, 0xE0, 0x90, 0xE0] ++
  [0xF0, 0x80, 0x80, 0x80, 0xF0] ++ [0xE0, 0x90, 0x90, 0x90, 0xE0] ++
  [0xF0, 0x80, 0xF0, 0x80, 0xF0] ++ [0xF0, 0x80, 0xF0, 0x80, 0x80]

/-- The default of the parameter `FONT` (R52). PRESUMED: the spec takes it from general knowledge
(log entry 4), and no statement of this package rests on it. -/
def defaultFont : Font := ⟨(defaultGlyphsLow ++ defaultGlyphsHigh).toArray, by decide⟩

/-- `random_byte()` (R13, R143, D12): the byte drawn by the draw number `k`. A FREE VALUE: it has no
body, so nothing can be proved of any draw (log entry 3). -/
opaque randomByte : Nat → Byte

end Sys2Proof.Config
end

