-- ==== Sys2Proof/Machine/State.lean ====
section
/-!
DEFINITION. The state of the engine as plain data (spec/10_state.md rule R20), the reasons a step can
stop, and the state after reset (rule R39).
-/
namespace Sys2Proof.Machine

/-- The values of `fault_cause` (spec/10_state.md R36, spec/60_exceptions.md R185): what a tick can
raise, and 0 for no fault. -/
inductive FaultCause where
  /-- code 0: no fault recorded -/
  | noFault
  /-- code 2: 2NNN with `sp == 16` (R188) -/
  | stackOverflow
  /-- code 3: 00EE with `sp == 0` (R189) -/
  | stackUnderflow
  /-- code 4: the opcode matches no row (R187) -/
  | invalidOpcode
  /-- code 5: EX9E or EXA1 with `V[X] > 15` (R191) -/
  | indexOutOfRange
  /-- code 6: fetch at `pc >= 0x0FFF`, or DXYN reading above 0xFFF (R190) -/
  | memoryOutOfRange
  deriving DecidableEq, Repr

/-- The memory as the listed cells: addresses strictly rising, no cell equal to what its address
reads as when unlisted (`Memory.wf` in Machine/Ops.lean). -/
abbrev Memory := List Host.Cell

/-- The framebuffer (R34): 32 rows of 64 pixels, the pixel in column `x` of row `y`, which the spec
calls `fb[x + 64*y]`, is bit `x` of entry `y` (log entry 5). -/
abbrev Framebuffer := Vector (BitVec 64) 32

/-- The complete state of the engine (R20), and two fields of the model's own: `font`, which carries
the OPEN parameter `FONT` (log entry 4), and `draws`, which numbers the draws of CXNN (log entry 3). -/
structure State where
  /-- `mem`, 4096 bytes (R50) -/
  mem : Memory
  /-- the program counter (R24) -/
  pc : Word
  /-- V0 to VF (R21) -/
  v : Vector Byte 16
  /-- `I` (R27) -/
  index : Word
  /-- the return stack (R28) -/
  stack : Vector Word 16
  /-- the stack pointer, how many entries are in use, 0 to 16 (R28) -/
  sp : Fin 17
  /-- the key matrix, true for pressed (R31) -/
  keys : Vector Bool 16
  /-- `DT`, the delay timer (R32) -/
  dt : Byte
  /-- `ST`, the sound timer (R33) -/
  st : Byte
  /-- the framebuffer (R34) -/
  fb : Framebuffer
  /-- the fault latch (R36): whether the engine is halted -/
  halted : Bool
  /-- the fault latch (R36): the cause -/
  faultCause : FaultCause
  /-- the fault latch (R36): the address of the faulting instruction -/
  faultAddr : Word
  /-- the fault latch (R36): the opcode of the faulting instruction -/
  faultOp : Word
  /-- the model's own: the parameter `FONT` (R52); nothing changes it -/
  font : Config.Font
  /-- the model's own: how many bytes CXNN has drawn (R13) -/
  draws : Nat
  deriving DecidableEq, Repr

/-- Why a step answers no next state though the instruction set is whole. -/
inductive Fault where
  /-- Raised by `step` alone, on an engine that an earlier fault has halted: the tick executes nothing,
  changes no state and returns the latched cause again (R95). Safe: no state is claimed to follow. -/
  | latched (cause : FaultCause)
  deriving DecidableEq, Repr

/-- Why the model gives an instruction no meaning. -/
inductive Refusal where
  /-- Raised by an arm of `exec` for an instruction without a meaning; no arm raises it now. Safe. -/
  | notModelled (mnemonic : String)
  deriving DecidableEq, Repr

/-- What a step or a meaning answers. -/
abbrev Outcome := Host.Outcome State Fault Refusal

/-- The state after power-on and after `reset()` (R39): memory lists nothing, so every byte reads as
its reset byte. `font` is PRESUMED (log entry 4) and `draws` a DESIGN CHOICE (log entry 3). -/
def State.reset : State where
  mem := []
  pc := 0x0200#16
  v := Vector.replicate 16 0
  index := 0
  stack := Vector.replicate 16 0
  sp := 0
  keys := Vector.replicate 16 false
  dt := 0
  st := 0
  fb := Vector.replicate 32 0
  halted := false
  faultCause := .noFault
  faultAddr := 0
  faultOp := 0
  font := Config.defaultFont
  draws := 0

end Sys2Proof.Machine
end

