-- ==== Sys2Proof/Machine/Ops.lean ====
section
/-!
DEFINITION. The named operations over the state: memory, registers, the program counter, the return
stack, the framebuffer, the draw, taking a fault and the reset that alone leaves one.
-/
namespace Sys2Proof.Machine

/-! ### One update per field -/

/-- Write the program counter (R24). -/
def State.setPc (s : State) (w : Word) : State := { s with pc := w }

/-- Write `V[x]` (R10, R21): no register is hard-wired. -/
def State.setV (s : State) (x : Reg) (b : Byte) : State := { s with v := s.v.set x.val b }

/-- Write `I` (R27). -/
def State.setIndex (s : State) (w : Word) : State := { s with index := w }

/-- Write the stack entries (R28). -/
def State.setStack (s : State) (k : Vector Word 16) : State := { s with stack := k }

/-- Write the stack pointer (R28). -/
def State.setSp (s : State) (p : Fin 17) : State := { s with sp := p }

/-- Write the key matrix (R31). -/
def State.setKeys (s : State) (k : Vector Bool 16) : State := { s with keys := k }

/-- Write `DT` (R32). -/
def State.setDt (s : State) (b : Byte) : State := { s with dt := b }

/-- Write `ST` (R33). -/
def State.setSt (s : State) (b : Byte) : State := { s with st := b }

/-- Write the framebuffer (R34). -/
def State.setFb (s : State) (f : Framebuffer) : State := { s with fb := f }

/-- Write the memory. -/
def State.setMem (s : State) (m : Memory) : State := { s with mem := m }

/-- Count one more draw. -/
def State.nextDraw (s : State) : State := { s with draws := s.draws + 1 }

/-- Write the fault latch (R36). -/
def State.setLatch (s : State) (cause : FaultCause) (addr op : Word) : State :=
  { s with halted := true, faultCause := cause, faultAddr := addr, faultOp := op }

/-! ### Registers -/

/-- Read `V[x]` (R10, R21). -/
def State.getV (s : State) (x : Reg) : Byte := s.v[x.val]

/-! ### Memory (spec/20_memory.md) -/

/-- What a byte reads as after reset and until `load_rom` writes another value there: the font at
0x000..0x04F, 0x00 elsewhere (R39, R51). This is what an unlisted address reads as. -/
def unlistedByte (font : Config.Font) (a : Nat) : Byte :=
  if h : a < Config.fontLen then font[a] else 0

/-- The listed byte at an address. -/
def Memory.lookup : Memory → Nat → Option Byte
  | [], _ => none
  | (k, c) :: rest, a => if k = a then some c else Memory.lookup rest a

/-- The canonical form: addresses below 4096 and strictly rising, all above `low`, and no cell equal
to what its address reads as when unlisted. -/
def Memory.wfFrom (font : Config.Font) : Nat → Memory → Bool
  | _, [] => true
  | low, (k, c) :: rest =>
    decide (low ≤ k) && decide (k < Config.memSize) && decide (c ≠ unlistedByte font k) &&
      Memory.wfFrom font (k + 1) rest

/-- The canonical form of a whole memory. -/
def Memory.wf (font : Config.Font) (m : Memory) : Bool := Memory.wfFrom font 0 m

/-- Put the cell `(a, b)` before `rest`, or nothing where `b` is what `a` reads as unlisted. -/
def Memory.consCell (font : Config.Font) (a : Nat) (b : Byte) (rest : Memory) : Memory :=
  if b = unlistedByte font a then rest else (a, b) :: rest

/-- Store one byte, keeping the canonical form. -/
def Memory.write (font : Config.Font) : Memory → Nat → Byte → Memory
  | [], a, b => Memory.consCell font a b []
  | (k, c) :: rest, a, b =>
    if a < k then Memory.consCell font a b ((k, c) :: rest)
    else if a = k then Memory.consCell font a b rest
    else (k, c) :: Memory.write font rest a b

/-- The byte at an address that exists. -/
def State.byteAt (s : State) (a : Nat) : Byte := (s.mem.lookup a).getD (unlistedByte s.font a)

/-- `MemRead(a, 1)` (R53): `none` where the spec raises `MemoryOutOfRange`. An address is a natural
number and is never wrapped (R11). -/
def State.memRead (s : State) (a : Nat) : Option Byte := if a > 0xFFF then none else some (s.byteAt a)

/-- `MemWrite(a, 1, b)` (R54), for `a` in 0x000..0xFFF. No caller passes another address; there the
memory is left as it is (log entry 12). -/
def State.memWrite (s : State) (a : Nat) (b : Byte) : State :=
  if a < Config.memSize then s.setMem (Memory.write s.font s.mem a b) else s

/-- Store bytes at rising addresses from `a`. -/
def State.memWriteAll (s : State) (a : Nat) : List Byte → State
  | [] => s
  | b :: bs => (s.memWrite a b).memWriteAll (a + 1) bs

/-- The `n` bytes at `base, base + 1, …` with the range check before any read (R91, R151): `none`
when `n > 0` and the last address is above 0xFFF. -/
def State.readBytes (s : State) (base n : Nat) : Option (List Byte) :=
  if n > 0 ∧ base + n - 1 > 0xFFF then none
  else some ((List.range n).map fun r => s.byteAt (base + r))

/-! ### Fetch and the program counter -/

/-- The opcode at an address (R91, R55): `none` when `a + 1 > 0xFFF`. -/
def State.fetchAt (s : State) (a : Nat) : Option Word :=
  if a + 1 > 0xFFF then none else some (opcodeOf (s.byteAt a) (s.byteAt (a + 1)))

/-- The fetch stage's opcode (R91). -/
def State.fetch (s : State) : Option Word := s.fetchAt s.pc.toNat

/-- The fetch stage's advance, modulo 2^16 (R26, R91). -/
def State.advance (s : State) : State := s.setPc (s.pc + 2)

/-- The skip (R114): pc, already advanced, moves by 2 more when the condition holds. -/
def State.skipIf (s : State) (c : Bool) : State := if c then s.setPc (s.pc + 2) else s

/-- The rewind of a waiting FX0A (R162, R26). -/
def State.rewind (s : State) : State := s.setPc (s.pc - 2)

/-! ### The return stack -/

/-- Push (R29): `none` where the spec raises `StackOverflow`. -/
def State.push (s : State) (w : Word) : Option State :=
  if h : s.sp.val < 16 then
    some ((s.setStack (s.stack.set s.sp.val w)).setSp ⟨s.sp.val + 1, by omega⟩)
  else none

/-- Pop (R30): `none` where the spec raises `StackUnderflow`. The entry is not cleared. -/
def State.pop (s : State) : Option (Word × State) :=
  if h : s.sp.val = 0 then none
  else some (s.stack[s.sp.val - 1]'(by omega), s.setSp ⟨s.sp.val - 1, by omega⟩)

/-! ### The framebuffer -/

/-- The pixel in column `x` of row `y` (R34). -/
def Framebuffer.pixel (f : Framebuffer) (x : Fin 64) (y : Fin 32) : Bool := f[y.val].getLsbD x.val

/-- Flip one pixel (R151). -/
def Framebuffer.toggle (f : Framebuffer) (x : Fin 64) (y : Fin 32) : Framebuffer :=
  f.set y.val (f[y.val] ^^^ BitVec.twoPow 64 x.val)

/-- Every pixel off (R150). -/
def Framebuffer.allOff : Framebuffer := Vector.replicate 32 0

/-- The entry `fb[k]` of the spec's row-major numbering, `k = x + 64*y` (R34). -/
def Framebuffer.entry (f : Framebuffer) (k : Fin 2048) : Bool :=
  f.pixel ⟨k.val % 64, by omega⟩ ⟨k.val / 64, by omega⟩

/-! ### Keys -/

/-- The least index of a pressed key, if any is pressed (R162). -/
def lowestPressed (keys : Vector Bool 16) : Option Reg :=
  (List.finRange 16).find? fun k => keys[k.val]

/-! ### The draw -/

/-- The byte `random_byte()` gives now (R13): a free value (log entry 3). -/
def State.drawnByte (s : State) : Byte := Config.randomByte s.draws

/-! ### Taking a fault, and leaving one -/

/-- `raise F(info)` in a tick that fetched at `addr` (R186): the latch is written and nothing else.
pc is already where R25 says (`addr` in the fetch stage, `addr + 2` later). -/
def State.raise (s : State) (cause : FaultCause) (addr op : Word) : State := s.setLatch cause addr op

/-- `raise` in the fetch stage (R91): no opcode was read and pc is not advanced. -/
def State.raiseInFetch (s : State) : State := s.raise .memoryOutOfRange s.pc 0

/-- `raise` in the decode stage (R92), with pc already advanced. -/
def State.raiseInDecode (s : State) (op : Word) : State := s.raise .invalidOpcode (s.pc - 2) op

/-- `raise` in the execute stage of `i` (R93, R186): pc is `a + 2` there, so `a` is `pc - 2`, and the
opcode is the word of `i` (log entry 10). -/
def raiseInExecute (cause : FaultCause) (i : Instr) (s : State) : Outcome :=
  .next (s.raise cause (s.pc - 2) (encode i))

/-- `reset()` (R215), the only way out of a fault (R195): every piece of the spec's state takes its
reset value. The parameter `font` stays, and so does `draws`, since reset reseeds nothing that a
model may rely on (R143, log entry 3). -/
def State.doReset (s : State) : State := { State.reset with font := s.font, draws := s.draws }

/-- What `tick` does on a halted engine (R95): it executes nothing and returns the latched fault. -/
def haltedTick (s : State) : Outcome := .fault (.latched s.faultCause)

end Sys2Proof.Machine
end

