-- ==== Sys2Proof/Machine/Operands.lean ====
section
/-!
DEFINITION. How the operands of an instruction are formed (spec/30_encoding.md rule R73): the values
of X and Y are `State.getV`, NN is used as it is, NNN is zero-extended, a key index is the value of a
register, a glyph address is five times one, and the pixels of a sprite row wrap in both axes.
-/
namespace Sys2Proof.Machine

/-- NNN as it is written to pc or I or added to V0: zero-extended to 16 bits, never scaled (R73). -/
def addrOperand (nnn : Addr12) : Word := zext16 nnn

/-- The target of BNNN (R103): V0 + NNN, modulo 2^16, not reduced to 12 bits. -/
def indexedTarget (s : State) (nnn : Addr12) : Word := zext16 (s.getV 0) + zext16 nnn

/-- The key a register value selects (R160, R161): `none` above 15, where the spec raises
`IndexOutOfRange`. -/
def keyOperand (b : Byte) : Option Reg := if h : b.toNat < 16 then some ⟨b.toNat, h⟩ else none

/-- The address of the glyph of `b` (R142): the whole byte times 5, with no mask. -/
def glyphAddress (b : Byte) : Word := zext16 b * BitVec.ofNat 16 Config.glyphLen

/-- The column of sprite column `col` for start column `vx` (R152). -/
def pixelColumn (vx : Byte) (col : Nat) : Fin 64 := ⟨(vx.toNat + col) % 64, by omega⟩

/-- The row of sprite row `row` for start row `vy` (R152). -/
def pixelRow (vy : Byte) (row : Nat) : Fin 32 := ⟨(vy.toNat + row) % 32, by omega⟩

/-- Sprite column `col` of a row byte: bit `7 - col`, most significant first (R152). -/
def spriteBit (b : Byte) (col : Nat) : Bool := b.getLsbD (7 - col)

end Sys2Proof.Machine
end

