-- ==== Sys2Proof/Machine/Flags.lean ====
section
/-!
DEFINITION. Every flag computation (spec/10_state.md rule R23, spec/43_alu.md rules R131 and R132).
The one flag is VF, written with 0x00 or 0x01.
-/
namespace Sys2Proof.Machine

/-- The 8-bit value of a flag (R23). -/
def flagByte (b : Bool) : Byte := if b then 1 else 0

/-- Carry of 8XY4: the unsigned sum exceeds 255 (R126, R131). -/
def carryFlag (p q : Byte) : Bool := decide (p.toNat + q.toNat > 255)

/-- NOT borrow of `p - q` in 8XY5 and 8XY7: `p >= q` (R127, R129, R131). -/
def notBorrowFlag (p q : Byte) : Bool := decide (p.toNat ≥ q.toNat)

/-- The bit 8XY6 shifts out: bit 0 before the shift (R128). -/
def lowBitFlag (p : Byte) : Bool := p.getLsbD 0

/-- The bit 8XYE shifts out: bit 7 before the shift (R130). -/
def highBitFlag (p : Byte) : Bool := p.getLsbD 7

/-- The result to `V[X]`, then the flag to `V[15]`: with X = F the flag remains (R132). -/
def State.writeWithFlag (s : State) (x : Reg) (result : Byte) (flag : Bool) : State :=
  (s.setV x result).setV regF (flagByte flag)

end Sys2Proof.Machine
end

