-- ==== Sys2Proof/Machine/Alu.lean ====
section
/-!
DEFINITION. Register loads and the ALU (spec/43_alu.md rules R120 to R133). Operands are read before
any write; the five flag-writing instructions write the flag last (R132, log entry 7).
-/
namespace Sys2Proof.Machine

/-- 6XNN LD VX, NN (R120). -/
def execLdImm (x : Reg) (nn : Byte) (s : State) : Outcome := .next (s.setV x nn)

/-- 7XNN ADD VX, NN (R121): no flag. -/
def execAddImm (x : Reg) (nn : Byte) (s : State) : Outcome := .next (s.setV x (s.getV x + nn))

/-- 8XY0 LD VX, VY (R122). -/
def execLdReg (x y : Reg) (s : State) : Outcome := .next (s.setV x (s.getV y))

/-- 8XY1 OR VX, VY (R123): no flag (R133). -/
def execOrReg (x y : Reg) (s : State) : Outcome := .next (s.setV x (s.getV x ||| s.getV y))

/-- 8XY2 AND VX, VY (R124): no flag (R133). -/
def execAndReg (x y : Reg) (s : State) : Outcome := .next (s.setV x (s.getV x &&& s.getV y))

/-- 8XY3 XOR VX, VY (R125): no flag (R133). -/
def execXorReg (x y : Reg) (s : State) : Outcome := .next (s.setV x (s.getV x ^^^ s.getV y))

/-- 8XY4 ADD VX, VY (R126): VF is the carry. -/
def execAddReg (x y : Reg) (s : State) : Outcome :=
  .next (s.writeWithFlag x (s.getV x + s.getV y) (carryFlag (s.getV x) (s.getV y)))

/-- 8XY5 SUB VX, VY (R127): VF is NOT borrow. -/
def execSubReg (x y : Reg) (s : State) : Outcome :=
  .next (s.writeWithFlag x (s.getV x - s.getV y) (notBorrowFlag (s.getV x) (s.getV y)))

/-- 8XY6 SHR VX (R128): the operand is VX, the shift is logical, VF is the bit shifted out;
Y is ignored (R77). -/
def execShr (x _y : Reg) (s : State) : Outcome :=
  .next (s.writeWithFlag x (s.getV x >>> 1) (lowBitFlag (s.getV x)))

/-- 8XY7 SUBN VX, VY (R129): VF is NOT borrow of VY - VX. -/
def execSubnReg (x y : Reg) (s : State) : Outcome :=
  .next (s.writeWithFlag x (s.getV y - s.getV x) (notBorrowFlag (s.getV y) (s.getV x)))

/-- 8XYE SHL VX (R130): the operand is VX, VF is the bit shifted out; Y is ignored (R77). -/
def execShl (x _y : Reg) (s : State) : Outcome :=
  .next (s.writeWithFlag x (s.getV x <<< 1) (highBitFlag (s.getV x)))

end Sys2Proof.Machine
end

