-- ==== Sys2Proof/Machine/Display.lean ====
section
/-!
DEFINITION. The display instructions (spec/45_display.md rules R150 to R154).
-/
namespace Sys2Proof.Machine

/-- 00E0 CLS (R150): every pixel off, VF not written. -/
def execCls (s : State) : Outcome := .next (s.setFb Framebuffer.allOff)

/-- One sprite pixel (R151), on the framebuffer and the collision so far: a 1 bit flips its pixel and
collides when the pixel was on; a 0 bit does nothing. -/
def drawPixel (vx vy : Byte) (row : Nat) (b : Byte) (c : Framebuffer × Bool) (col : Nat) :
    Framebuffer × Bool :=
  if spriteBit b col then
    (c.1.toggle (pixelColumn vx col) (pixelRow vy row),
      c.2 || c.1.pixel (pixelColumn vx col) (pixelRow vy row))
  else c

/-- One sprite row (R151): columns 0 to 7 in order. -/
def drawRow (vx vy : Byte) (row : Nat) (b : Byte) (c : Framebuffer × Bool) : Framebuffer × Bool :=
  (List.range 8).foldl (drawPixel vx vy row b) c

/-- The rows of a sprite in order (R151), the first of `bytes` being row `row`. -/
def drawRows (vx vy : Byte) : Nat → List Byte → Framebuffer × Bool → Framebuffer × Bool
  | _, [], c => c
  | row, b :: bytes, c => drawRows vx vy (row + 1) bytes (drawRow vx vy row b c)

/-- The state after a draw: the pixels, and the collision in VF, which is written on every execution
(R151). -/
def State.afterDraw (s : State) (c : Framebuffer × Bool) : State :=
  (s.setFb c.1).setV regF (flagByte c.2)

/-- DXYN DRW VX, VY, N (R151): coordinates and base are read first (log entry 8); when a row address
is above 0xFFF the draw raises `MemoryOutOfRange` and changes nothing. -/
def execDrw (x y : Reg) (n : Nat) (s : State) : Outcome :=
  match s.readBytes s.index.toNat n with
  | some bytes => .next (s.afterDraw (drawRows (s.getV x) (s.getV y) 0 bytes (s.fb, false)))
  | none => raiseInExecute .memoryOutOfRange (.drw x y n) s

end Sys2Proof.Machine
end

