-- ==== Sys2Proof/Machine/Flow.lean ====
section
/-!
DEFINITION. NOP and control flow (spec/40_cycle_engine.md rule R94, spec/41_flow.md rules R100 to
R103). A meaning is the execute stage (R93): the state it takes has pc at `a + 2` (log entry 11).
-/
namespace Sys2Proof.Machine

/-- 0000 NOP (R94): nothing. -/
def execNop (s : State) : Outcome := .next s

/-- 00EE RET (R100): pop into pc, or `StackUnderflow`. -/
def execRet (s : State) : Outcome :=
  match s.pop with
  | some (target, s') => .next (s'.setPc target)
  | none => raiseInExecute .stackUnderflow .ret s

/-- 1NNN JP NNN (R101). -/
def execJp (nnn : Addr12) (s : State) : Outcome := .next (s.setPc (addrOperand nnn))

/-- 2NNN CALL NNN (R102): push the advanced pc and jump, or `StackOverflow`. -/
def execCall (nnn : Addr12) (s : State) : Outcome :=
  match s.push s.pc with
  | some s' => .next (s'.setPc (addrOperand nnn))
  | none => raiseInExecute .stackOverflow (.call nnn) s

/-- BNNN JP V0, NNN (R103). -/
def execJpV0 (nnn : Addr12) (s : State) : Outcome := .next (s.setPc (indexedTarget s nnn))

end Sys2Proof.Machine
end

