-- ==== Sys2Proof/Machine/Index.lean ====
section
/-!
DEFINITION. The index register and the random instruction (spec/44_index_random.md rules R140 to
R144). None writes VF and none accesses memory.
-/
namespace Sys2Proof.Machine

/-- ANNN LD I, NNN (R140). -/
def execLdIndex (nnn : Addr12) (s : State) : Outcome := .next (s.setIndex (addrOperand nnn))

/-- FX1E ADD I, VX (R141): modulo 2^16, no flag. -/
def execAddIndex (x : Reg) (s : State) : Outcome := .next (s.setIndex (s.index + zext16 (s.getV x)))

/-- FX29 LD F, VX (R142). -/
def execLdFont (x : Reg) (s : State) : Outcome := .next (s.setIndex (glyphAddress (s.getV x)))

/-- CXNN with the drawn byte `r` (R143). -/
def rndWith (r : Byte) (x : Reg) (nn : Byte) (s : State) : State := (s.setV x (r &&& nn)).nextDraw

/-- CXNN RND VX, NN (R143): the drawn byte is a free value (log entry 3). -/
def execRnd (x : Reg) (nn : Byte) (s : State) : Outcome := .next (rndWith s.drawnByte x nn s)

end Sys2Proof.Machine
end

