-- ==== Sys2Proof/Machine/KeysTimers.lean ====
section
/-!
DEFINITION. The key and timer instructions (spec/46_keys_timers.md rules R160 to R166).
-/
namespace Sys2Proof.Machine

/-- EX9E SKP VX (R160): skip if the key that `V[X]` selects is pressed, or `IndexOutOfRange`. -/
def execSkp (x : Reg) (s : State) : Outcome :=
  match keyOperand (s.getV x) with
  | some k => .next (s.skipIf s.keys[k.val])
  | none => raiseInExecute .indexOutOfRange (.skp x) s

/-- EXA1 SKNP VX (R161): skip if the key that `V[X]` selects is released, or `IndexOutOfRange`. -/
def execSknp (x : Reg) (s : State) : Outcome :=
  match keyOperand (s.getV x) with
  | some k => .next (s.skipIf !s.keys[k.val])
  | none => raiseInExecute .indexOutOfRange (.sknp x) s

/-- FX07 LD VX, DT (R163). -/
def execLdFromDelay (x : Reg) (s : State) : Outcome := .next (s.setV x s.dt)

/-- FX0A LD VX, K (R162): the lowest pressed key to `V[X]`, or the rewind while none is pressed. -/
def execLdKey (x : Reg) (s : State) : Outcome :=
  match lowestPressed s.keys with
  | some k => .next (s.setV x (BitVec.ofNat 8 k.val))
  | none => .next s.rewind

/-- FX15 LD DT, VX (R164). -/
def execLdDelay (x : Reg) (s : State) : Outcome := .next (s.setDt (s.getV x))

/-- FX18 LD ST, VX (R165): no tone from the instruction. -/
def execLdSound (x : Reg) (s : State) : Outcome := .next (s.setSt (s.getV x))

end Sys2Proof.Machine
end

