-- ==== Sys2Proof/Machine/Skip.lean ====
section
/-!
DEFINITION. The compare-and-skip instructions (spec/42_skip.md rules R110 to R114).
-/
namespace Sys2Proof.Machine

/-- 3XNN SE VX, NN (R110). -/
def execSeImm (x : Reg) (nn : Byte) (s : State) : Outcome := .next (s.skipIf (s.getV x == nn))

/-- 4XNN SNE VX, NN (R111). -/
def execSneImm (x : Reg) (nn : Byte) (s : State) : Outcome := .next (s.skipIf (s.getV x != nn))

/-- 5XY0 SE VX, VY (R112). -/
def execSeReg (x y : Reg) (s : State) : Outcome := .next (s.skipIf (s.getV x == s.getV y))

/-- 9XY0 SNE VX, VY (R113). -/
def execSneReg (x y : Reg) (s : State) : Outcome := .next (s.skipIf (s.getV x != s.getV y))

end Sys2Proof.Machine
end

