-- ==== Sys2Proof/Machine/Step.lean ====
section
/-!
DEFINITION. One `tick` (spec/40_cycle_engine.md rules R90 to R95), and placing an instruction where
the next tick fetches it.
-/
namespace Sys2Proof.Machine

/-- Decode and execute (R92, R93) an opcode fetched from `s.pc - 2`; pc is already advanced. -/
def decodeAndExec (op : Word) (s : State) : Outcome :=
  match decode op with
  | .instr i => exec i s
  | .illegal _ => .next (s.raiseInDecode op)

/-- `tick()` (R90): the state it leaves. Whether it returned `Ok` or a fault is read off the latch
(`tick` in Machine/HostOps.lean). -/
def step (s : State) : Host.Outcome State Fault Refusal :=
  if s.halted then haltedTick s
  else
    match s.fetch with
    | none => .next s.raiseInFetch
    | some op => decodeAndExec op s.advance

/-- `s` with the two bytes of an instruction stored at pc, as a loader stores them (R55, R172). -/
def State.withFetchWord (s : State) (nbits w : Nat) : State :=
  s.memWriteAll s.pc.toNat (bytesOfWord (wordOfTable nbits w))

end Sys2Proof.Machine
end

