-- ==== Sys2Proof/Machine/HostOps.lean ====
section
/-!
DEFINITION. The operations by which the outside drives the engine (spec/47_host_operations.md rules
R170 to R181): each is one atomic, total function of the state that also gives its result. Any
sequence of them is an execution (R170, R177; log entries 1 and 9).
-/
namespace Sys2Proof.Machine

/-- The numeric codes of R185 for `fault_cause`. -/
def FaultCause.code : FaultCause → Nat
  | .noFault => 0
  | .stackOverflow => 2
  | .stackUnderflow => 3
  | .invalidOpcode => 4
  | .indexOutOfRange => 5
  | .memoryOutOfRange => 6

/-- The errors returned to the caller of a host operation (R185, R192). -/
inductive HostError where
  /-- code 1: `load_rom` with more than 3584 bytes -/
  | romTooLarge
  /-- code 5: `key_press` with an index above 15 -/
  | indexOutOfRange
  deriving DecidableEq, Repr

/-- The numeric codes of R185 for host errors. -/
def HostError.code : HostError → Nat
  | .romTooLarge => 1
  | .indexOutOfRange => 5

/-- The kinds of step of R170. -/
inductive HostOp where
  | tick
  | tickTimers
  | keyPress (k : Nat) (pressed : Bool)
  | loadRom (bytes : List Byte)
  | reset
  | getDisplay
  deriving DecidableEq, Repr

/-- What an operation gives back (R181). -/
inductive Response where
  | ok
  | fault (cause : FaultCause)
  | error (e : HostError)
  | tone (on : Bool)
  | display (pixels : List Bool)
  /-- an instruction without a meaning; no operation gives it -/
  | refused (r : Refusal)
  deriving DecidableEq, Repr

/-- The result of a tick that left this state (R90, R186): the latched fault, else `Ok`. -/
def tickResult (s : State) : Response := if s.halted then .fault s.faultCause else .ok

/-- `tick()` with its result (R90): a halted engine keeps its state and returns the latched fault
again (R95). -/
def tick (s : State) : State × Response :=
  match step s with
  | .next s' => (s', tickResult s')
  | .fault (.latched cause) => (s, .fault cause)
  | .refused r => (s, .refused r)

/-- One timer's decrement (R175): by 1 when it is not 0. -/
def decrement (b : Byte) : Byte := if b.toNat > 0 then b - 1 else b

/-- `tick_timers()` (R175, R176): the tone is sampled before the decrement. -/
def tickTimers (s : State) : State × Response :=
  ((s.setDt (decrement s.dt)).setSt (decrement s.st), .tone (s.st == 1))

/-- `key_press(k, p)` (R173). -/
def keyPress (k : Nat) (pressed : Bool) (s : State) : State × Response :=
  if h : k < 16 then (s.setKeys (s.keys.set k pressed), .ok) else (s, .error .indexOutOfRange)

/-- `load_rom(bytes)` (R172): all of it or nothing. -/
def loadRom (bytes : List Byte) (s : State) : State × Response :=
  if bytes.length > Config.romMax then (s, .error .romTooLarge)
  else (s.memWriteAll Config.romBase bytes, .ok)

/-- The 2048 entries of the framebuffer, row-major (R174, R34). -/
def displayEntries (f : Framebuffer) : List Bool := (List.finRange 2048).map f.entry

/-- `get_display()` (R174). -/
def getDisplay (s : State) : State × Response := (s, .display (displayEntries s.fb))

/-- `reset()` (R215): no failure, no tone. -/
def resetOp (s : State) : State × Response := (s.doReset, .ok)

/-- One host operation (R170). -/
def applyOp (op : HostOp) (s : State) : State × Response :=
  match op with
  | .tick => tick s
  | .tickTimers => tickTimers s
  | .keyPress k p => keyPress k p s
  | .loadRom bytes => loadRom bytes s
  | .reset => resetOp s
  | .getDisplay => getDisplay s

/-- The state after a sequence of operations. -/
def runOps : List HostOp → State → State
  | [], s => s
  | op :: ops, s => runOps ops (applyOp op s).1

/-- The results of a sequence of operations, in order. -/
def responses : List HostOp → State → List Response
  | [], _ => []
  | op :: ops, s => (applyOp op s).2 :: responses ops (applyOp op s).1

end Sys2Proof.Machine
end

