-- ==== Sys2Proof/Safety.lean ====
section
/-!
DEFINITION. The terms in which claims speak: a running engine, what stays unchanged (a frame), the
fault entry, and the invariant of the machine.
-/
namespace Sys2Proof.Machine

/-- No fault is recorded: the premise R194 asks every claim about a program's result to take. -/
def Running (s : State) : Prop := s.halted = false

/-! ### Frames -/

/-- The pieces of state other than the general registers (R20), and the model's own two fields. -/
inductive Piece where
  | memory
  | pc
  | index
  | stackEntries
  | stackPointer
  | keys
  | delayTimer
  | soundTimer
  | framebuffer
  | latch
  | font
  | draws
  deriving DecidableEq, Repr

/-- The piece is the same in both states; memory byte by byte at every address, the framebuffer
pixel by pixel. -/
def Piece.same : Piece → State → State → Prop
  | .memory, s, t => ∀ a, t.memRead a = s.memRead a
  | .pc, s, t => t.pc = s.pc
  | .index, s, t => t.index = s.index
  | .stackEntries, s, t => t.stack = s.stack
  | .stackPointer, s, t => t.sp = s.sp
  | .keys, s, t => t.keys = s.keys
  | .delayTimer, s, t => t.dt = s.dt
  | .soundTimer, s, t => t.st = s.st
  | .framebuffer, s, t => ∀ x y, t.fb.pixel x y = s.fb.pixel x y
  | .latch, s, t =>
    t.halted = s.halted ∧ t.faultCause = s.faultCause ∧ t.faultAddr = s.faultAddr ∧ t.faultOp = s.faultOp
  | .font, s, t => t.font = s.font
  | .draws, s, t => t.draws = s.draws

/-- From `s` to `t` nothing changes but the registers `regs` and the pieces `pieces`. -/
def FrameExcept (regs : List Reg) (pieces : List Piece) (s t : State) : Prop :=
  (∀ r, r ∉ regs → t.getV r = s.getV r) ∧ ∀ p, p ∉ pieces → p.same s t

/-- `i` executed in `s` answers a next state of which `P` holds. -/
def Gives (i : Instr) (s : State) (P : State → Prop) : Prop := ∃ t, exec i s = .next t ∧ P t

/-- The fault entry of R186: the latch holds the cause, the address and the opcode, and nothing else
differs from `s` (whose pc already stands where R25 puts it). -/
def FaultEntered (cause : FaultCause) (addr op : Word) (s t : State) : Prop :=
  t.halted = true ∧ t.faultCause = cause ∧ t.faultAddr = addr ∧ t.faultOp = op ∧
    FrameExcept [] [.latch] s t

/-- The instruction the next tick would execute, if the fetch and the decoding succeed. -/
def instrAt (s : State) : Option Instr :=
  match s.fetch with
  | some op => match decode op with
    | .instr i => some i
    | .illegal _ => none
  | none => none

/-! ### The invariant -/

/-- What holds of the engine between any two operations. -/
structure Inv (s : State) : Prop where
  /-- memory keeps its canonical form -/
  memory : Memory.wf s.font s.mem = true
  /-- the latch is clear while the engine runs (R36) -/
  latchClear : s.halted = false → s.faultCause = .noFault ∧ s.faultAddr = 0 ∧ s.faultOp = 0
  /-- the latch holds a cause once it is halted (R36) -/
  latchCause : s.halted = true → s.faultCause ≠ .noFault
  /-- pc is at most what BNNN can compute (R26) -/
  pcBound : s.pc.toNat ≤ 0x10FE
  /-- an entry in use is the address after a CALL (R100) -/
  stackBound : ∀ k : Fin 16, k.val < s.sp.val → s.stack[k.val].toNat ≤ 0x1000

end Sys2Proof.Machine
end

