-- ==== Sys2Proof/Certificates/Slice0/Obligations.lean ====
section
/-!
DEFINITION. The statements for the provers, and the few terms they share: each docstring names the
rules of spec/ it formalises. `exec i s` is the execute stage, so in it `s.pc` is `a + 2` (R93).
-/
namespace Sys2Proof.Machine

/-! ### Terms of the statements -/

/-- The opcodes R76 lists as illegal, by leading nibble. -/
def ListedIllegal (op : Word) : Prop :=
  (fieldD1 op = 0x0#4 ∧ op ≠ 0x0000#16 ∧ op ≠ 0x00E0#16 ∧ op ≠ 0x00EE#16) ∨
  (fieldD1 op = 0x5#4 ∧ fieldN op ≠ 0#4) ∨
  (fieldD1 op = 0x8#4 ∧ fieldN op ∈ [0x8#4, 0x9#4, 0xA#4, 0xB#4, 0xC#4, 0xD#4, 0xF#4]) ∨
  (fieldD1 op = 0x9#4 ∧ fieldN op ≠ 0#4) ∨
  (fieldD1 op = 0xE#4 ∧ fieldNN op ∉ [0x9E#8, 0xA1#8]) ∨
  (fieldD1 op = 0xF#4 ∧ fieldNN op ∉ [0x07#8, 0x0A#8, 0x15#8, 0x18#8, 0x1E#8, 0x29#8])

/-- The word selects the row of the instruction: `(op & mask) == match` (R72). -/
def SelectsRow (op : Word) (i : Instr) : Prop := op &&& i.row.2 = i.row.1

/-- The one fault condition of each instruction in its execute stage (R185, R193). -/
def executeFault (i : Instr) (s : State) : FaultCause :=
  match i with
  | .ret => if s.sp.val = 0 then .stackUnderflow else .noFault
  | .call _ => if s.sp.val = 16 then .stackOverflow else .noFault
  | .skp x => if (s.getV x).toNat > 15 then .indexOutOfRange else .noFault
  | .sknp x => if (s.getV x).toNat > 15 then .indexOutOfRange else .noFault
  | .drw _ _ n => if n > 0 ∧ s.index.toNat + n - 1 > 0xFFF then .memoryOutOfRange else .noFault
  | _ => .noFault

/-- The first fault a tick meets, in the order fetch, decode, execute (R193). -/
def firstFault (s : State) : FaultCause :=
  if s.pc.toNat ≥ 0x0FFF then .memoryOutOfRange
  else
    match instrAt s with
    | none => .invalidOpcode
    | some i => executeFault i s

/-- How each instruction leaves pc (R25), in terms of the state before the tick, whose pc is `a`. -/
def PcAfter (i : Instr) (s t : State) : Prop :=
  match i with
  | .ret => ∃ k : Fin 16, k.val + 1 = s.sp.val ∧ t.pc = s.stack[k.val]
  | .jp nnn => t.pc.toNat = nnn.toNat
  | .call nnn => t.pc.toNat = nnn.toNat
  | .jpV0 nnn => t.pc.toNat = (s.getV 0).toNat + nnn.toNat
  | .seImm x nn => t.pc = if s.getV x = nn then s.pc + 4 else s.pc + 2
  | .sneImm x nn => t.pc = if s.getV x ≠ nn then s.pc + 4 else s.pc + 2
  | .seReg x y => t.pc = if s.getV x = s.getV y then s.pc + 4 else s.pc + 2
  | .sneReg x y => t.pc = if s.getV x ≠ s.getV y then s.pc + 4 else s.pc + 2
  | .skp x => ∃ k : Reg, k.val = (s.getV x).toNat ∧
      t.pc = if s.keys[k.val] = true then s.pc + 4 else s.pc + 2
  | .sknp x => ∃ k : Reg, k.val = (s.getV x).toNat ∧
      t.pc = if s.keys[k.val] = false then s.pc + 4 else s.pc + 2
  | .ldKey _ => t.pc = if ∃ k : Reg, s.keys[k.val] = true then s.pc + 2 else s.pc
  | _ => t.pc = s.pc + 2

/-- The general registers an instruction may write (R22). -/
def writtenRegs : Instr → List Reg
  | .ldImm x _ | .addImm x _ | .rnd x _ | .ldFromDelay x | .ldKey x => [x]
  | .ldReg x _ | .orReg x _ | .andReg x _ | .xorReg x _ => [x]
  | .addReg x _ | .subReg x _ | .shr x _ | .subnReg x _ | .shl x _ => [x, regF]
  | .drw _ _ _ => [regF]
  | _ => []

/-- The instruction is a skip whose condition holds (R110 to R113, R160, R161). -/
def TakenSkip (i : Instr) (s : State) : Prop :=
  match i with
  | .seImm x nn => s.getV x = nn
  | .sneImm x nn => s.getV x ≠ nn
  | .seReg x y => s.getV x = s.getV y
  | .sneReg x y => s.getV x ≠ s.getV y
  | .skp x => ∃ k : Reg, k.val = (s.getV x).toNat ∧ s.keys[k.val] = true
  | .sknp x => ∃ k : Reg, k.val = (s.getV x).toNat ∧ s.keys[k.val] = false
  | _ => False

/-- A 1 bit of the sprite of DXYN falls on the pixel in column `px` of row `py` (R151, R152). -/
def SpriteOn (s : State) (vx vy : Byte) (n : Nat) (px : Fin 64) (py : Fin 32) : Prop :=
  ∃ row col : Nat, row < n ∧ col < 8 ∧ (vx.toNat + col) % 64 = px.val ∧
    (vy.toNat + row) % 32 = py.val ∧ (s.byteAt (s.index.toNat + row)).getLsbD (7 - col) = true

/-- A stretch of an execution in which every CALL is matched by a RET (R100): ticks of instructions
that are neither, host operations other than `tick` and `reset`, and matched pairs. No tick of it
faults. -/
inductive BalancedRun : State → State → Prop where
  | stop (s : State) : BalancedRun s s
  | plain {s t u : State} {i : Instr} : s.halted = false → instrAt s = some i → i ≠ .ret →
      (∀ nnn, i ≠ .call nnn) → step s = .next t → t.halted = false → BalancedRun t u → BalancedRun s u
  | host {s u : State} {op : HostOp} : op ≠ .tick → op ≠ .reset → BalancedRun (applyOp op s).1 u →
      BalancedRun s u
  | pair {s t u v w : State} {nnn : Addr12} : s.halted = false → instrAt s = some (.call nnn) →
      step s = .next t → t.halted = false → BalancedRun t u → instrAt u = some .ret →
      step u = .next v → v.halted = false → BalancedRun v w → BalancedRun s w

/-- The two states differ at most in stack entries that are not in use (R28). -/
def SameButStale (s t : State) : Prop :=
  t = { s with stack := t.stack } ∧
    ∀ k : Fin 16, k.val < s.sp.val → t.stack[k.val] = s.stack[k.val]

end Sys2Proof.Machine

open Sys2Proof Sys2Proof.Machine

/-! ### Reset and the cycle -/

/-- R39, R215: what `reset()` leaves, from any state; memory byte by byte, `FONT` first; it gives no
tone; and power-on is a state which a reset leaves (R171). That the latch is cleared is the spec's own
choice D24. -/
def Obligations.ResetLeavesTheStatedValues : Prop :=
  ∀ s : State, ∀ t, (applyOp .reset s).1 = t →
    (∀ a, (h : a < 80) → t.memRead a = some s.font[a]) ∧
    (∀ a, 80 ≤ a → a ≤ 0xFFF → t.memRead a = some 0x00#8) ∧
    t.pc = 0x0200#16 ∧ (∀ r, t.getV r = 0x00#8) ∧ t.index = 0x0000#16 ∧ t.sp.val = 0 ∧
    (∀ k : Fin 16, t.stack[k.val] = 0x0000#16) ∧ (∀ k : Fin 16, t.keys[k.val] = false) ∧
    t.dt = 0x00#8 ∧ t.st = 0x00#8 ∧ (∀ x y, t.fb.pixel x y = false) ∧
    t.halted = false ∧ t.faultCause = .noFault ∧ t.faultAddr = 0x0000#16 ∧ t.faultOp = 0x0000#16 ∧
    (applyOp .reset s).2 = .ok ∧ (applyOp .reset State.reset).1 = State.reset

/-- R55, R90, R91: the two bytes at pc, high byte first, are the instruction a running engine
executes, with pc already advanced by 2. -/
def Obligations.TickRunsTheDecodedInstruction : Prop :=
  ∀ (s : State) (i : Instr) (hi lo : Byte), Running s →
    s.memRead s.pc.toNat = some hi → s.memRead (s.pc.toNat + 1) = some lo →
    decodeBytes [hi, lo] = .instr i →
    step s = exec i (s.setPc (s.pc + 2))

/-- R190: the fetch at `pc >= 0x0FFF` faults with pc unchanged and opcode 0; a DXYN row above 0xFFF
faults with nothing drawn, VF not written and pc at `a + 2`. The fault is the spec's own choice D4, D5
and its entry D2, D11. -/
def Obligations.AccessOutsideMemoryFaults : Prop :=
  (∀ s : State, Running s → s.pc.toNat ≥ 0x0FFF →
    ∃ t, step s = .next t ∧ FaultEntered .memoryOutOfRange s.pc 0x0000#16 s t) ∧
  (∀ (x y : Reg) (n : Nat) (s : State), n < 16 → n > 0 → s.index.toNat + n - 1 > 0xFFF →
    Gives (.drw x y n) s
      (FaultEntered .memoryOutOfRange (s.pc - 2) (encode (.drw x y n)) s))

/-- R76, R92, R187: every listed opcode faults in the decode stage, with pc advanced. The form of the
fault entry is the spec's own choice D2, D11. -/
def Obligations.IllegalOpcodesFault : Prop :=
  ∀ (s : State) (op : Word), Running s → s.fetch = some op → ListedIllegal op →
    ∃ t, step s = .next t ∧ t.pc = s.pc + 2 ∧
      FaultEntered .invalidOpcode s.pc op (s.setPc (s.pc + 2)) t

/-- R95: a halted engine's tick changes no state and returns the latched fault, and no operation but
reset clears `halted`. The latch is the spec's own choice D2, D17, D24. -/
def Obligations.HaltedTickChangesNothing : Prop :=
  ∀ s : State, s.halted = true →
    step s = .fault (.latched s.faultCause) ∧ applyOp .tick s = (s, .fault s.faultCause) ∧
    (∀ op, op ≠ .reset → (applyOp op s).1.halted = true) ∧ (applyOp .reset s).1.halted = false

/-- R194: over any sequence of operations without a reset the latch of a halted engine stays as it
is, and every tick in it reports the same fault. The latch is the spec's own choice D2. -/
def Obligations.FaultLatchIsSticky : Prop :=
  ∀ (ops : List HostOp) (s : State), s.halted = true → HostOp.reset ∉ ops →
    Piece.same .latch s (runOps ops s) ∧
      ∀ k : Nat, ops[k]? = some HostOp.tick →
        (responses ops s)[k]? = some (Response.fault s.faultCause)

/-- R186: a faulting tick writes the latch and pc alone; the address is that of the faulting
instruction, the opcode the one fetched (0 where none was), and the tick returns the fault. The form
of the fault entry is the spec's own choice D2, D11. -/
def Obligations.FaultsArePrecise : Prop :=
  ∀ s t : State, Running s → step s = .next t → t.halted = true →
    FrameExcept [] [.latch, .pc] s t ∧ t.faultAddr = s.pc ∧ t.faultCause ≠ .noFault ∧
    (s.pc.toNat ≥ 0x0FFF → t.faultOp = 0x0000#16 ∧ t.pc = s.pc) ∧
    (∀ op, s.fetch = some op → t.faultOp = op ∧ t.pc = s.pc + 2) ∧
    applyOp .tick s = (t, .fault t.faultCause)

/-- R193: a running engine's tick always answers a next state; it halts exactly when one of the
conditions holds, and the cause is the first met in stage order. The order is the spec's own choice D23,
three of the conditions are its choices D4 to D6. -/
def Obligations.TickRaisesTheFirstFaultOnly : Prop :=
  ∀ s : State, Running s → ∃ t, step s = .next t ∧
    (t.halted = true ↔ firstFault s ≠ .noFault) ∧ (t.halted = true → t.faultCause = firstFault s)

/-- R192: `load_rom` of more than 3584 bytes and `key_press` above 15 return their errors and change
nothing at all. That neither halts the engine is the spec's own choice D16. -/
def Obligations.HostErrorsChangeNothing : Prop :=
  (∀ (bytes : List Byte) (s : State), bytes.length > 3584 →
    applyOp (.loadRom bytes) s = (s, .error .romTooLarge)) ∧
  (∀ (k : Nat) (p : Bool) (s : State), k > 15 →
    applyOp (.keyPress k p) s = (s, .error .indexOutOfRange))

/-- R25: how each instruction leaves pc, and the two fault rows, which are the spec's own choice D11. -/
def Obligations.PcAfterEveryTick : Prop :=
  ∀ s t : State, Running s → step s = .next t →
    (s.fetch = none → t.pc = s.pc) ∧
    (∀ op, s.fetch = some op → t.halted = true → t.pc = s.pc + 2) ∧
    (∀ i, instrAt s = some i → t.halted = false → PcAfter i s t)

/-! ### Encoding -/

/-- R72, R73, R75: decoding the word of any well-formed instruction gives it back. -/
def Obligations.DecodeOfEncode : Prop :=
  ∀ i : Instr, i.wf = true → decode (encode i) = .instr i

/-- R73, R75: the decoder gives only well-formed instructions, and their word is the one decoded. -/
def Obligations.EncodeOfDecode : Prop :=
  ∀ (op : Word) (i : Instr), decode op = .instr i → i.wf = true ∧ encode i = op

/-- R74: at most one row matches an opcode, the decoder selects the matching row, and it rejects
exactly the opcodes that no row matches. -/
def Obligations.DecodeSelectsTheMatchingRow : Prop :=
  ∀ op : Word,
    (∀ i j : Instr, SelectsRow op i → SelectsRow op j → i.row = j.row) ∧
    (∀ i, decode op = .instr i → SelectsRow op i) ∧
    ((∃ g, decode op = .illegal g) ↔ ∀ i : Instr, ¬ SelectsRow op i)

/-- R76: the illegal opcodes are exactly those listed by leading nibble. -/
def Obligations.IllegalOpcodesAreThoseListed : Prop :=
  ∀ op : Word, (∃ g, decode op = .illegal g) ↔ ListedIllegal op

/-- R81: the worked field extractions. -/
def Obligations.WorkedWordsDecode : Prop :=
  decodeBytes [0x6A#8, 0x05#8] = .instr (.ldImm 10 0x05#8) ∧
  decodeBytes [0xFA#8, 0x29#8] = .instr (.ldFont 10) ∧
  decodeBytes [0xD0#8, 0x15#8] = .instr (.drw 0 1 5) ∧
  decodeBytes [0x8A#8, 0xB6#8] = .instr (.shr 10 11) ∧
  decodeBytes [0x5A#8, 0xB1#8] = .illegal .group5 ∧
  decodeBytes [0xF0#8, 0x65#8] = .illegal .groupF ∧
  decodeBytes [0x01#8, 0x23#8] = .illegal .group0

/-! ### NOP and control flow -/

/-- R94: NOP changes nothing beyond the fetch stage's advance. -/
def Obligations.NopChangesNothing : Prop := ∀ s : State, Gives .nop s (FrameExcept [] [] s)

/-- R94's corner case, which the spec marks as its own inference, and R228: an engine that is reset and
ticked without a ROM executes NOPs from 0x200 on, 1792 of them, and the next tick raises
`MemoryOutOfRange` at 0x1000. That this fetch faults is the spec's own choice D4 and the form of the
fault entry D2, D11 (log entry 19). -/
def Obligations.UnloadedMemoryRunsAsNops : Prop :=
  ∀ s : State,
    (∀ k, k ≤ 1792 → FrameExcept [] [.pc] s.doReset (runOps (List.replicate k .tick) s.doReset) ∧
      (runOps (List.replicate k .tick) s.doReset).pc.toNat = 0x200 + 2 * k) ∧
    FaultEntered .memoryOutOfRange 0x1000#16 0x0000#16 (s.doReset.setPc 0x1000#16)
      (runOps (List.replicate 1793 .tick) s.doReset)

/-- R30, R100, R189: RET takes pc from the entry below `sp` and counts one less, the entry stays; on
an empty stack it faults and `sp` stays 0. The slot is the spec's own choice D10, that the entry stays
D25, the form of the fault entry D2, D11. -/
def Obligations.RetPopsTheReturnAddress : Prop :=
  (∀ (s : State) (k : Fin 16), k.val + 1 = s.sp.val →
    Gives .ret s fun t => t.pc = s.stack[k.val] ∧ t.sp.val = k.val ∧
      FrameExcept [] [.pc, .stackPointer] s t) ∧
  (∀ s : State, s.sp.val = 0 →
    Gives .ret s (FaultEntered .stackUnderflow (s.pc - 2) 0x00EE#16 s))

/-- R29, R102, R188: CALL stores the advanced pc at `sp`, counts one more and jumps; on a full stack
it faults, nothing is pushed and pc does not become NNN. The slot is the spec's own choice D10, the
form of the fault entry D2, D11. -/
def Obligations.CallPushesAndJumps : Prop :=
  (∀ (nnn : Addr12) (s : State) (k : Fin 16), k.val = s.sp.val →
    Gives (.call nnn) s fun t => t.pc.toNat = nnn.toNat ∧ t.sp.val = s.sp.val + 1 ∧
      t.stack[k.val] = s.pc ∧ (∀ j : Fin 16, j ≠ k → t.stack[j.val] = s.stack[j.val]) ∧
      FrameExcept [] [.pc, .stackPointer, .stackEntries] s t) ∧
  (∀ (nnn : Addr12) (s : State), s.sp.val = 16 →
    Gives (.call nnn) s (FaultEntered .stackOverflow (s.pc - 2) (encode (.call nnn)) s))

/-- R101, R103: the jumps' targets, not reduced to 12 bits. -/
def Obligations.JumpsGoToTheirTargets : Prop :=
  (∀ (nnn : Addr12) (s : State),
    Gives (.jp nnn) s fun t => t.pc.toNat = nnn.toNat ∧ FrameExcept [] [.pc] s t) ∧
  (∀ (nnn : Addr12) (s : State),
    Gives (.jpV0 nnn) s fun t => t.pc.toNat = (s.getV 0).toNat + nnn.toNat ∧
      FrameExcept [] [.pc] s t)

/-- R100: pc after RET is the value pushed by the most recent unmatched CALL, whatever balanced
stretch of execution lies between. -/
def Obligations.StackIsLifo : Prop :=
  ∀ (s t u v : State) (nnn : Addr12), Running s → instrAt s = some (.call nnn) →
    step s = .next t → Running t → BalancedRun t u → instrAt u = some .ret → step u = .next v →
    Running v ∧ v.pc = s.pc + 2 ∧ v.sp = s.sp

/-- R28: entries at index `sp` and above cannot be told apart by any sequence of operations: not by
its results and not by anything of the state but those entries. Which entries those are is the spec's
own choice D10. -/
def Obligations.StaleStackEntriesAreUnobservable : Prop :=
  ∀ (ops : List HostOp) (s t : State), SameButStale s t →
    responses ops s = responses ops t ∧ SameButStale (runOps ops s) (runOps ops t)

/-! ### Skips -/

/-- R110 to R113: a skip moves the advanced pc by 2 when its condition holds, and does nothing else. -/
def Obligations.CompareSkips : Prop :=
  (∀ (x : Reg) (nn : Byte) (s : State), Gives (.seImm x nn) s fun t =>
    (s.getV x = nn → t.pc = s.pc + 2) ∧ (s.getV x ≠ nn → t.pc = s.pc) ∧ FrameExcept [] [.pc] s t) ∧
  (∀ (x : Reg) (nn : Byte) (s : State), Gives (.sneImm x nn) s fun t =>
    (s.getV x ≠ nn → t.pc = s.pc + 2) ∧ (s.getV x = nn → t.pc = s.pc) ∧ FrameExcept [] [.pc] s t) ∧
  (∀ (x y : Reg) (s : State), Gives (.seReg x y) s fun t =>
    (s.getV x = s.getV y → t.pc = s.pc + 2) ∧ (s.getV x ≠ s.getV y → t.pc = s.pc) ∧
      FrameExcept [] [.pc] s t) ∧
  (∀ (x y : Reg) (s : State), Gives (.sneReg x y) s fun t =>
    (s.getV x ≠ s.getV y → t.pc = s.pc + 2) ∧ (s.getV x = s.getV y → t.pc = s.pc) ∧
      FrameExcept [] [.pc] s t)

/-- R114: a taken skip leaves pc at `a + 4` and changes nothing else, so it cannot fault; and it passes
over the two bytes at `a + 2` without fetching or decoding them: whatever bytes stand there, the tick
is the same. That a key skip above key 15 is no taken skip is the spec's own choice D6. -/
def Obligations.SkippedWordIsNotDecoded : Prop :=
  (∀ (s : State) (i : Instr), Running s → instrAt s = some i → TakenSkip i s →
    step s = .next (s.setPc (s.pc + 4))) ∧
  (∀ (s : State) (i : Instr) (hi lo : Byte), Running s → instrAt s = some i → TakenSkip i s →
    Memory.wf s.font s.mem = true → s.pc.toNat + 3 ≤ 0xFFF →
    step (s.memWriteAll (s.pc.toNat + 2) [hi, lo]) =
      .next ((s.memWriteAll (s.pc.toNat + 2) [hi, lo]).setPc (s.pc + 4)))

/-! ### Loads and the ALU -/

/-- R120, R122 to R125: the loads and the logical operations write `V[X]` and nothing else;
VF changes only as the destination. -/
def Obligations.LoadsAndLogicWriteOneRegister : Prop :=
  (∀ (x : Reg) (nn : Byte) (s : State),
    Gives (.ldImm x nn) s fun t => t.getV x = nn ∧ FrameExcept [x] [] s t) ∧
  (∀ (x y : Reg) (s : State),
    Gives (.ldReg x y) s fun t => t.getV x = s.getV y ∧ FrameExcept [x] [] s t) ∧
  (∀ (x y : Reg) (s : State),
    Gives (.orReg x y) s fun t => t.getV x = s.getV x ||| s.getV y ∧ FrameExcept [x] [] s t) ∧
  (∀ (x y : Reg) (s : State),
    Gives (.andReg x y) s fun t => t.getV x = s.getV x &&& s.getV y ∧ FrameExcept [x] [] s t) ∧
  (∀ (x y : Reg) (s : State),
    Gives (.xorReg x y) s fun t => t.getV x = s.getV x ^^^ s.getV y ∧ FrameExcept [x] [] s t)

/-- R121: the immediate add wraps modulo 256 and sets no flag. -/
def Obligations.AddImmediateWrapsWithoutFlag : Prop :=
  ∀ (x : Reg) (nn : Byte) (s : State), Gives (.addImm x nn) s fun t =>
    (t.getV x).toNat = ((s.getV x).toNat + nn.toNat) % 256 ∧ FrameExcept [x] [] s t

/-- R126: the sum modulo 256, and VF = 1 exactly when it exceeds 255; with X = F the flag remains
(R132, the spec's own choice D7, log entry 7). -/
def Obligations.AddSetsTheCarry : Prop :=
  ∀ (x y : Reg) (s : State), Gives (.addReg x y) s fun t =>
    (x ≠ regF → (t.getV x).toNat = ((s.getV x).toNat + (s.getV y).toNat) % 256) ∧
    (t.getV regF).toNat = (if (s.getV x).toNat + (s.getV y).toNat > 255 then 1 else 0) ∧
    FrameExcept [x, regF] [] s t

/-- R127, R129: the differences modulo 256, and VF = 1 exactly when nothing was borrowed; with X = F
the flag remains (R132, the spec's own choice D7, log entry 7). -/
def Obligations.SubtractionsSetNotBorrow : Prop :=
  (∀ (x y : Reg) (s : State), Gives (.subReg x y) s fun t =>
    (x ≠ regF →
      ((t.getV x).toNat : Int) = ((s.getV x).toNat - (s.getV y).toNat : Int) % 256) ∧
    (t.getV regF).toNat = (if (s.getV x).toNat ≥ (s.getV y).toNat then 1 else 0) ∧
    FrameExcept [x, regF] [] s t) ∧
  (∀ (x y : Reg) (s : State), Gives (.subnReg x y) s fun t =>
    (x ≠ regF →
      ((t.getV x).toNat : Int) = ((s.getV y).toNat - (s.getV x).toNat : Int) % 256) ∧
    (t.getV regF).toNat = (if (s.getV y).toNat ≥ (s.getV x).toNat then 1 else 0) ∧
    FrameExcept [x, regF] [] s t)

/-- R128, R130: the shifts by one of VX (never VY), and VF = the bit shifted out; with X = F the flag
remains (R132, the spec's own choice D7, log entry 7). -/
def Obligations.ShiftsSetTheBitShiftedOut : Prop :=
  (∀ (x y : Reg) (s : State), Gives (.shr x y) s fun t =>
    (x ≠ regF → (t.getV x).toNat = (s.getV x).toNat / 2) ∧
    (t.getV regF).toNat = (s.getV x).toNat % 2 ∧ FrameExcept [x, regF] [] s t) ∧
  (∀ (x y : Reg) (s : State), Gives (.shl x y) s fun t =>
    (x ≠ regF → (t.getV x).toNat = (s.getV x).toNat * 2 % 256) ∧
    (t.getV regF).toNat = (s.getV x).toNat / 128 ∧ FrameExcept [x, regF] [] s t)

/-- R22: no instruction writes a general register that R22 does not give it (the spec's own inference
from its other rules). -/
def Obligations.OnlyTheListedRegistersAreWritten : Prop :=
  ∀ (i : Instr) (s t : State) (r : Reg), exec i s = .next t → r ∉ writtenRegs i →
    t.getV r = s.getV r

/-! ### Index and random -/

/-- R140 to R142: the three writes of I; none sets a flag. -/
def Obligations.IndexInstructionsWriteI : Prop :=
  (∀ (nnn : Addr12) (s : State), Gives (.ldIndex nnn) s fun t =>
    t.index.toNat = nnn.toNat ∧ FrameExcept [] [.index] s t) ∧
  (∀ (x : Reg) (s : State), Gives (.addIndex x) s fun t =>
    t.index.toNat = (s.index.toNat + (s.getV x).toNat) % 65536 ∧ FrameExcept [] [.index] s t) ∧
  (∀ (x : Reg) (s : State), Gives (.ldFont x) s fun t =>
    t.index.toNat = (s.getV x).toNat * 5 ∧ FrameExcept [] [.index] s t)

/-- R144: nothing else writes I (the spec's own inference from its other rules). -/
def Obligations.NothingElseWritesI : Prop :=
  ∀ (i : Instr) (s t : State), exec i s = .next t →
    (∀ nnn, i ≠ .ldIndex nnn) → (∀ x, i ≠ .addIndex x) → (∀ x, i ≠ .ldFont x) → t.index = s.index

/-- R143: RND puts the drawn byte AND NN into `V[X]`; over all draws exactly the bytes `v` with
`v & ~NN == 0` are possible results. (That the draw is free is the spec's own choice D12; the draw counter is the model's,
log entry 3.) -/
def Obligations.RndMasksAFreeDraw : Prop :=
  (∀ (x : Reg) (nn : Byte) (s : State), Gives (.rnd x nn) s fun t =>
    t.getV x = s.drawnByte &&& nn ∧ t.getV x &&& ~~~nn = 0 ∧ t.draws = s.draws + 1 ∧
      FrameExcept [x] [.draws] s t) ∧
  (∀ (x : Reg) (nn v : Byte) (s : State), v &&& ~~~nn = 0 ↔ ∃ r, (rndWith r x nn s).getV x = v)

/-! ### Display -/

/-- R150: CLS turns every pixel off and writes nothing else. -/
def Obligations.ClsTurnsEveryPixelOff : Prop :=
  ∀ s : State, Gives .cls s fun t =>
    (∀ x y, t.fb.pixel x y = false) ∧ FrameExcept [] [.framebuffer] s t

/-- R151, R152: when every row address exists, DRW flips exactly the pixels the sprite's 1 bits fall
on, wrapping in both axes, and VF is 1 if one of them was on, else 0; I and memory are unchanged.
The coordinates are those before VF is written, X = F and Y = F included (the spec's own choice D8, log
entry 8); the condition is D5. -/
def Obligations.DrwXorsTheSprite : Prop :=
  ∀ (x y : Reg) (n : Nat) (s : State), n < 16 → (n = 0 ∨ s.index.toNat + n - 1 ≤ 0xFFF) →
    Gives (.drw x y n) s fun t =>
      (∀ px py, t.fb.pixel px py = true ↔
        ¬ (s.fb.pixel px py = true ↔ SpriteOn s (s.getV x) (s.getV y) n px py)) ∧
      ((∃ px py, s.fb.pixel px py = true ∧ SpriteOn s (s.getV x) (s.getV y) n px py) →
        t.getV regF = 0x01#8) ∧
      ((¬ ∃ px py, s.fb.pixel px py = true ∧ SpriteOn s (s.getV x) (s.getV y) n px py) →
        t.getV regF = 0x00#8) ∧
      FrameExcept [regF] [.framebuffer] s t

/-- R151 corner case (6): drawing the same sprite at the same position again restores every pixel,
and the second draw's VF is 1 exactly when the first draw turned a pixel on. `r` is any state with the
first draw's framebuffer and the same coordinates, I and memory (VF may have been a coordinate). That
the coordinates are those before VF is written, X = F and Y = F included, is the spec's own choice D8
(log entry 8), the bound on the rows its choice D5 (log entry 19). (The rule's parenthesis, "iff the
sprite has at least one 1 bit", is not so where the first draw only turned pixels off: the model's
choice, log entry 15.) -/
def Obligations.DrawingTwiceRestoresTheScreen : Prop :=
  ∀ (x y : Reg) (n : Nat) (s t r : State), n < 16 → (n = 0 ∨ s.index.toNat + n - 1 ≤ 0xFFF) →
    exec (.drw x y n) s = .next t →
    r.fb = t.fb → r.getV x = s.getV x → r.getV y = s.getV y → r.index = s.index →
    (∀ a, r.memRead a = s.memRead a) →
    Gives (.drw x y n) r fun u =>
      (∀ px py, u.fb.pixel px py = s.fb.pixel px py) ∧
      (u.getV regF = 0x01#8 ↔ ∃ px py, s.fb.pixel px py = false ∧ t.fb.pixel px py = true) ∧
      FrameExcept [regF] [.framebuffer] r u

/-- R154: only CLS, DRW and reset write the framebuffer. -/
def Obligations.OnlyClsDrwAndResetWriteTheFramebuffer : Prop :=
  (∀ (i : Instr) (s t : State), exec i s = .next t → i ≠ .cls → (∀ x y n, i ≠ .drw x y n) →
    t.fb = s.fb) ∧
  (∀ (op : HostOp) (s : State), op ≠ .tick → op ≠ .reset → (applyOp op s).1.fb = s.fb)

/-! ### Keys and timers -/

/-- R160, R161, R191: the key skips test the key that the value of `V[X]` selects, and fault above
15 (the spec's own choice D6; the form of the fault entry is D2, D11). -/
def Obligations.KeySkipsTestTheKeyLevel : Prop :=
  (∀ (x k : Reg) (s : State), (s.getV x).toNat = k.val →
    (Gives (.skp x) s fun t =>
      (s.keys[k.val] = true → t.pc = s.pc + 2) ∧ (s.keys[k.val] = false → t.pc = s.pc) ∧
        FrameExcept [] [.pc] s t) ∧
    (Gives (.sknp x) s fun t =>
      (s.keys[k.val] = false → t.pc = s.pc + 2) ∧ (s.keys[k.val] = true → t.pc = s.pc) ∧
        FrameExcept [] [.pc] s t)) ∧
  (∀ (x : Reg) (s : State), (s.getV x).toNat > 15 →
    Gives (.skp x) s (FaultEntered .indexOutOfRange (s.pc - 2) (encode (.skp x)) s) ∧
    Gives (.sknp x) s (FaultEntered .indexOutOfRange (s.pc - 2) (encode (.sknp x)) s))

/-- R162: with a key pressed LD VX, K takes the lowest; with none the rewound tick leaves the whole
state as it was and still returns `Ok`. -/
def Obligations.KeyWaitRewindsOrTakesTheLowestKey : Prop :=
  (∀ (x : Reg) (s : State) (k : Reg), s.keys[k.val] = true → (∀ j : Reg, j < k → s.keys[j.val] = false) →
    Gives (.ldKey x) s fun t => (t.getV x).toNat = k.val ∧ FrameExcept [x] [] s t) ∧
  (∀ (x : Reg) (s : State), (∀ j : Reg, s.keys[j.val] = false) →
    Gives (.ldKey x) s fun t => t.pc = s.pc - 2 ∧ FrameExcept [] [.pc] s t) ∧
  (∀ (x : Reg) (s : State), Running s → instrAt s = some (.ldKey x) →
    (∀ j : Reg, s.keys[j.val] = false) → applyOp .tick s = (s, .ok))

/-- R163 to R165: the timer instructions; no tick gives a tone. -/
def Obligations.TimerInstructionsMoveOneByte : Prop :=
  (∀ (x : Reg) (s : State),
    Gives (.ldFromDelay x) s fun t => t.getV x = s.dt ∧ FrameExcept [x] [] s t) ∧
  (∀ (x : Reg) (s : State),
    Gives (.ldDelay x) s fun t => t.dt = s.getV x ∧ FrameExcept [] [.delayTimer] s t) ∧
  (∀ (x : Reg) (s : State),
    Gives (.ldSound x) s fun t => t.st = s.getV x ∧ FrameExcept [] [.soundTimer] s t) ∧
  (∀ (s : State) (on : Bool), (applyOp .tick s).2 ≠ .tone on)

/-! ### Host operations -/

/-- R175: each timer goes down by exactly 1 when it is not 0, the tone says whether ST was 1, and
nothing else changes. It says so of every state: that the timers of a halted engine count down too is
the spec's own choice D17 (log entry 20), and the form of the tone D19. -/
def Obligations.TimerTickDecrements : Prop :=
  ∀ s : State, ∃ t, applyOp .tickTimers s = (t, .tone (decide (s.st.toNat = 1))) ∧
    (s.dt.toNat > 0 → t.dt.toNat + 1 = s.dt.toNat) ∧ (s.dt.toNat = 0 → t.dt.toNat = 0) ∧
    (s.st.toNat > 0 → t.st.toNat + 1 = s.st.toNat) ∧ (s.st.toNat = 0 → t.st.toNat = 0) ∧
    FrameExcept [] [.delayTimer, .soundTimer] s t

/-- R176: a countdown from `n >= 1` gives no tone for `n - 1` timer ticks, one tone on the `n`-th,
and none after it (the spec's own inference from R175). That a halted engine does so too is the
spec's own choice D17 (log entry 20). -/
def Obligations.ToneFiresOncePerCountdown : Prop :=
  ∀ (s : State) (n m : Nat), s.st.toNat = n + 1 →
    responses (List.replicate (n + 1 + m) .tickTimers) s =
      List.replicate n (.tone false) ++ [.tone true] ++ List.replicate m (.tone false)

/-- R172: `load_rom` puts byte `k` at 0x200 + k, leaves every other byte and all other state, and is
rejected whole above 3584 bytes. That the bytes beyond the image stay is the spec's own choice D15. -/
def Obligations.LoadRomCopiesOrRejects : Prop :=
  ∀ (bytes : List Byte) (s : State), Memory.wf s.font s.mem = true →
    (bytes.length ≤ 3584 → ∃ t, applyOp (.loadRom bytes) s = (t, .ok) ∧
      (∀ k, (h : k < bytes.length) → t.memRead (0x200 + k) = some bytes[k]) ∧
      (∀ a, a < 0x200 ∨ 0x200 + bytes.length ≤ a → t.memRead a = s.memRead a) ∧
      FrameExcept [] [.memory] s t) ∧
    (bytes.length > 3584 → applyOp (.loadRom bytes) s = (s, .error .romTooLarge))

/-- R173: `key_press` writes the one key it names, or is refused above 15, which halts nothing (the spec's own
choice D16); that a halted engine takes it too is D17 (log entry 20). -/
def Obligations.KeyPressWritesOneKey : Prop :=
  (∀ (k : Reg) (p : Bool) (s : State), ∃ t, applyOp (.keyPress k.val p) s = (t, .ok) ∧
    t.keys[k.val] = p ∧ (∀ j : Reg, j ≠ k → t.keys[j.val] = s.keys[j.val]) ∧
    FrameExcept [] [.keys] s t) ∧
  (∀ (k : Nat) (p : Bool) (s : State), k > 15 →
    applyOp (.keyPress k p) s = (s, .error .indexOutOfRange))

/-- R174: `get_display` gives the 2048 pixels, row-major, and changes nothing. That it may be issued in
any state, a halted one included, is the spec's own choice D17, D21 (log entry 20). -/
def Obligations.GetDisplayReadsTheFramebuffer : Prop :=
  ∀ s : State, ∃ pixels, applyOp .getDisplay s = (s, .display pixels) ∧ pixels.length = 2048 ∧
    ∀ (x : Fin 64) (y : Fin 32), pixels[x.val + 64 * y.val]? = some (s.fb.pixel x y)

/-- R96: the host operations other than `tick` execute no instruction and leave pc, the registers
and the stack alone; reset alone moves pc, to 0x0200. -/
def Obligations.HostOperationsNeverMovePc : Prop :=
  (∀ (op : HostOp) (s : State), op ≠ .tick → op ≠ .reset →
    FrameExcept [] [.delayTimer, .soundTimer, .keys, .memory] s (applyOp op s).1) ∧
  (∀ s : State, (applyOp .reset s).1.pc = 0x0200#16)

/-- R54: a write of one byte sets that byte alone; no tick changes a byte of memory, so only `load_rom`
(of `len` bytes, at 0x200 to 0x200 + len - 1) and reset do; below 0x200 (the font) memory is constant between resets, and all of it is between
resets and loads. -/
def Obligations.InstructionsNeverWriteMemory : Prop :=
  (∀ (s : State) (a : Nat) (b : Byte), Memory.wf s.font s.mem = true → a ≤ 0xFFF →
    (s.memWrite a b).memRead a = some b ∧
      ∀ a', a' ≠ a → (s.memWrite a b).memRead a' = s.memRead a') ∧
  (∀ s t : State, step s = .next t → ∀ a, t.memRead a = s.memRead a) ∧
  (∀ (op : HostOp) (s : State), op ≠ .reset → (∀ bytes, op ≠ .loadRom bytes) →
    ∀ a, (applyOp op s).1.memRead a = s.memRead a) ∧
  (∀ (bytes : List Byte) (s : State), Memory.wf s.font s.mem = true →
    ∀ a, a < 0x200 ∨ 0x200 + bytes.length ≤ a →
      (applyOp (.loadRom bytes) s).1.memRead a = s.memRead a) ∧
  (∀ (ops : List HostOp) (s : State), Memory.wf s.font s.mem = true → HostOp.reset ∉ ops →
    ∀ a, a < 0x200 → (runOps ops s).memRead a = s.memRead a) ∧
  (∀ (ops : List HostOp) (s : State), HostOp.reset ∉ ops → (∀ bytes, HostOp.loadRom bytes ∉ ops) →
    ∀ a, (runOps ops s).memRead a = s.memRead a)

/-- R216, R63, R55: after reset and `load_rom` of an image, the next tick runs the instruction whose
word the image begins with. -/
def Obligations.BootRunsTheFirstInstruction : Prop :=
  ∀ (s₀ : State) (i : Instr) (rest : List Byte), i.wf = true → rest.length ≤ 3582 →
    ∀ s, runOps [.reset, .loadRom (bytesOfWord (encode i) ++ rest)] s₀ = s →
      s.pc = 0x0200#16 ∧ step s = exec i (s.setPc 0x0202#16)

/-- The model's `withFetchWord` (log entry 13) places an instruction where the next tick of a running
engine runs it, and changes no byte but the two at pc. -/
def Obligations.PlacedWordIsTheNextInstruction : Prop :=
  ∀ (s : State) (i : Instr), Running s → Memory.wf s.font s.mem = true → i.wf = true →
    s.pc.toNat ≤ 0xFFE →
    step (s.withFetchWord 16 (encode i).toNat) =
        exec i ((s.withFetchWord 16 (encode i).toNat).setPc (s.pc + 2)) ∧
      FrameExcept [] [.memory] s (s.withFetchWord 16 (encode i).toNat) ∧
      ∀ a, a ≠ s.pc.toNat → a ≠ s.pc.toNat + 1 →
        (s.withFetchWord 16 (encode i).toNat).memRead a = s.memRead a

/-! ### The invariant -/

/-- The invariant holds at power-on, and after a reset in any state. -/
def Obligations.InvariantHoldsAfterReset : Prop := Inv State.reset ∧ ∀ s : State, Inv s.doReset

/-- R26, R36, R100: every tick keeps the invariant, from every state that has it. -/
def Obligations.InvariantIsKeptByEveryStep : Prop :=
  ∀ s t : State, Inv s → step s = .next t → Inv t

/-- R26, R36: so does every sequence of operations of the host, in any order; and the parameter FONT
never changes. -/
def Obligations.InvariantIsKeptByEveryOperation : Prop :=
  ∀ (ops : List HostOp) (s : State), Inv s → Inv (runOps ops s) ∧ (runOps ops s).font = s.font
end

