-- ==== Sys2Proof/Laws/Encoding.lean ====
section
/-!
SUPPORT. The fields of the words that the formats build (spec/30_encoding.md rules R71, R72): each
field reads back as it was put in.
-/
namespace Sys2Proof

/-! ### The bits of the words -/

/-- A bit of a word of format A. -/
theorem getLsbD_formatA (d1 : Nibble) (nnn : Addr12) (k : Nat) :
    (formatA d1 nnn).getLsbD k = if k < 12 then nnn.getLsbD k else d1.getLsbD (k - 12) :=
  (BitVec.getLsbD_append (x := d1) (y := nnn)).trans (by simp)

/-- A bit of a word of format I. -/
theorem getLsbD_formatI (d1 : Nibble) (x : Reg) (nn : Byte) (k : Nat) :
    (formatI d1 x nn).getLsbD k =
      if k < 8 then nn.getLsbD k
      else if k - 8 < 4 then (BitVec.ofFin x : Nibble).getLsbD (k - 8) else d1.getLsbD (k - 8 - 4) :=
  (BitVec.getLsbD_append (x := (d1 ++ (BitVec.ofFin x : Nibble) : Byte)) (y := nn)).trans (by
    rw [show (d1 ++ (BitVec.ofFin x : Nibble) : Byte).getLsbD (k - 8) = _ from
      BitVec.getLsbD_append (x := d1) (y := (BitVec.ofFin x : Nibble))])

/-- The formats R and D are the format I with the byte of Y and d4. -/
theorem formatR_eq (d1 : Nibble) (x y : Reg) (d4 : Nibble) :
    formatR d1 x y d4 = formatI d1 x ((BitVec.ofFin y : Nibble) ++ d4 : Byte) := rfl

/-- A bit of the byte of Y and d4. -/
theorem getLsbD_lowByte (y : Reg) (d4 : Nibble) (k : Nat) :
    ((BitVec.ofFin y : Nibble) ++ d4 : Byte).getLsbD k =
      if k < 4 then d4.getLsbD k else (BitVec.ofFin y : Nibble).getLsbD (k - 4) :=
  (BitVec.getLsbD_append (x := (BitVec.ofFin y : Nibble)) (y := d4)).trans (by simp)

/-! ### Format A -/

@[simp] theorem fieldD1_formatA (d1 : Nibble) (nnn : Addr12) : fieldD1 (formatA d1 nnn) = d1 := by
  apply BitVec.eq_of_getLsbD_eq
  intro k hk
  simp [fieldD1, getLsbD_formatA, hk]

@[simp] theorem fieldNNN_formatA (d1 : Nibble) (nnn : Addr12) :
    fieldNNN (formatA d1 nnn) = nnn := by
  apply BitVec.eq_of_getLsbD_eq
  intro k hk
  simp [fieldNNN, getLsbD_formatA, hk]

/-! ### Format I -/

@[simp] theorem fieldD1_formatI (d1 : Nibble) (x : Reg) (nn : Byte) :
    fieldD1 (formatI d1 x nn) = d1 := by
  apply BitVec.eq_of_getLsbD_eq
  intro k hk
  have h1 : ¬ 12 + k < 8 := by omega
  have h2 : 12 + k - 8 = 4 + k := by omega
  simp [fieldD1, getLsbD_formatI, hk, h1, h2]

@[simp] theorem fieldX_formatI (d1 : Nibble) (x : Reg) (nn : Byte) :
    fieldX (formatI d1 x nn) = x := by
  have h : (formatI d1 x nn).extractLsb' 8 4 = BitVec.ofFin x := by
    apply BitVec.eq_of_getLsbD_eq
    intro k hk
    simp [getLsbD_formatI, hk]
  simp [fieldX, h]

@[simp] theorem fieldNN_formatI (d1 : Nibble) (x : Reg) (nn : Byte) :
    fieldNN (formatI d1 x nn) = nn := by
  apply BitVec.eq_of_getLsbD_eq
  intro k hk
  simp [fieldNN, getLsbD_formatI, hk]

/-! ### Formats R and D -/

@[simp] theorem fieldD1_formatR (d1 : Nibble) (x y : Reg) (d4 : Nibble) :
    fieldD1 (formatR d1 x y d4) = d1 := by
  rw [formatR_eq, fieldD1_formatI]

@[simp] theorem fieldX_formatR (d1 : Nibble) (x y : Reg) (d4 : Nibble) :
    fieldX (formatR d1 x y d4) = x := by
  rw [formatR_eq, fieldX_formatI]

@[simp] theorem fieldY_formatR (d1 : Nibble) (x y : Reg) (d4 : Nibble) :
    fieldY (formatR d1 x y d4) = y := by
  have h : (formatR d1 x y d4).extractLsb' 4 4 = BitVec.ofFin y := by
    apply BitVec.eq_of_getLsbD_eq
    intro k hk
    have h1 : 4 + k < 8 := by omega
    rw [BitVec.getLsbD_extractLsb', formatR_eq, getLsbD_formatI, if_pos h1, getLsbD_lowByte]
    simp [hk]
  simp [fieldY, h]

@[simp] theorem fieldN_formatR (d1 : Nibble) (x y : Reg) (d4 : Nibble) :
    fieldN (formatR d1 x y d4) = d4 := by
  apply BitVec.eq_of_getLsbD_eq
  intro k hk
  have h1 : 0 + k < 8 := by omega
  rw [fieldN, BitVec.getLsbD_extractLsb', formatR_eq, getLsbD_formatI, if_pos h1, getLsbD_lowByte]
  simp [hk]

/-! ### The fixed bits of the formats -/

/-- What the mask of format A leaves of a word. -/
theorem formatA_mask (d1 : Nibble) (nnn : Addr12) : formatA d1 nnn &&& 0xF000#16 = formatA d1 0 := by
  apply BitVec.eq_of_getLsbD_eq
  intro k hk
  simp only [BitVec.getLsbD_and, getLsbD_formatA]
  interval_cases k <;> simp

/-- What the mask of formats I and D leaves of a word. -/
theorem formatI_mask (d1 : Nibble) (x : Reg) (nn : Byte) :
    formatI d1 x nn &&& 0xF000#16 = formatA d1 0 := by
  apply BitVec.eq_of_getLsbD_eq
  intro k hk
  simp only [BitVec.getLsbD_and, getLsbD_formatI, getLsbD_formatA]
  interval_cases k <;> simp

/-- What the mask of format K leaves of a word. -/
theorem formatK_mask (d1 : Nibble) (x : Reg) (nn : Byte) :
    formatI d1 x nn &&& 0xF0FF#16 = formatI d1 0 nn := by
  apply BitVec.eq_of_getLsbD_eq
  intro k hk
  simp only [BitVec.getLsbD_and, getLsbD_formatI]
  interval_cases k <;> simp

/-- What the mask of format R leaves of a word. -/
theorem formatR_mask (d1 : Nibble) (x y : Reg) (d4 : Nibble) :
    formatR d1 x y d4 &&& 0xF00F#16 = formatR d1 0 0 d4 := by
  apply BitVec.eq_of_getLsbD_eq
  intro k hk
  simp only [BitVec.getLsbD_and, formatR_eq, getLsbD_formatI, getLsbD_lowByte]
  interval_cases k <;> simp

/-- What the mask of format D leaves of a word. -/
theorem formatD_mask (d1 : Nibble) (x y : Reg) (d4 : Nibble) :
    formatR d1 x y d4 &&& 0xF000#16 = formatA d1 0 := by
  rw [formatR_eq, formatI_mask]

/-! ### A word is made of its fields -/

/-- Every word is the format A of its fields. -/
theorem formatA_fields (op : Word) : formatA (fieldD1 op) (fieldNNN op) = op := by
  apply BitVec.eq_of_getLsbD_eq
  intro k hk
  rw [getLsbD_formatA]
  split
  · simp [fieldNNN, *]
  · have h1 : k - 12 < 4 := by omega
    have h2 : 12 + (k - 12) = k := by omega
    simp [fieldD1, h1, h2]

/-- Every word is the format I of its fields. -/
theorem formatI_fields (op : Word) : formatI (fieldD1 op) (fieldX op) (fieldNN op) = op := by
  apply BitVec.eq_of_getLsbD_eq
  intro k hk
  have hx : (BitVec.ofFin (fieldX op) : Nibble) = op.extractLsb' 8 4 := rfl
  rw [getLsbD_formatI, hx]
  split
  · simp [fieldNN, *]
  · split
    · have h2 : 8 + (k - 8) = k := by omega
      rw [BitVec.getLsbD_extractLsb', h2]
      simp [*]
    · have h1 : k - 8 - 4 < 4 := by omega
      have h2 : 12 + (k - 8 - 4) = k := by omega
      simp [fieldD1, h1, h2]

/-- The low byte of a word is made of Y and d4. -/
theorem lowByte_fields (op : Word) :
    ((BitVec.ofFin (fieldY op) : Nibble) ++ fieldN op : Byte) = fieldNN op := by
  apply BitVec.eq_of_getLsbD_eq
  intro k hk
  have hy : (BitVec.ofFin (fieldY op) : Nibble) = op.extractLsb' 4 4 := rfl
  rw [getLsbD_lowByte, hy]
  split
  · simp [fieldNN, fieldN, *]
  · have h1 : k - 4 < 4 := by omega
    have h2 : 4 + (k - 4) = k := by omega
    rw [BitVec.getLsbD_extractLsb', h2]
    simp [fieldNN, h1, hk]

/-- Every word is the format R of its fields. -/
theorem formatR_fields (op : Word) :
    formatR (fieldD1 op) (fieldX op) (fieldY op) (fieldN op) = op := by
  rw [formatR_eq, lowByte_fields, formatI_fields]

/-! ### What a masked match says of the fields -/

/-- A match under the mask of formats A, I and D fixes d1. -/
theorem fieldD1_of_mask {op : Word} {d : Nibble} (h : op &&& 0xF000#16 = formatA d 0) :
    fieldD1 op = d := by
  rw [← formatA_fields op, formatA_mask] at h
  simpa using congrArg fieldD1 h

/-- A match under the mask of format R fixes d1 and d4. -/
theorem fields_of_maskR {op : Word} {d n : Nibble} (h : op &&& 0xF00F#16 = formatR d 0 0 n) :
    fieldD1 op = d ∧ fieldN op = n := by
  rw [← formatR_fields op, formatR_mask] at h
  exact ⟨by simpa using congrArg fieldD1 h, by simpa using congrArg fieldN h⟩

/-- A match under the mask of format K fixes d1 and the low byte. -/
theorem fields_of_maskK {op : Word} {d : Nibble} {nn : Byte}
    (h : op &&& 0xF0FF#16 = formatI d 0 nn) : fieldD1 op = d ∧ fieldNN op = nn := by
  rw [← formatI_fields op, formatK_mask] at h
  exact ⟨by simpa using congrArg fieldD1 h, by simpa using congrArg fieldNN h⟩

/-- The mask of format Z keeps the whole word. -/
theorem and_maskZ (op : Word) : op &&& 0xFFFF#16 = op := by
  have h : (0xFFFF#16 : Word) = BitVec.allOnes 16 := rfl
  rw [h, BitVec.and_allOnes]

/-! ### Bytes and words -/

/-- The two bytes of a word make it again (R55). -/
theorem opcodeOf_bytes (w : Word) : opcodeOf (w.extractLsb' 8 8) (w.extractLsb' 0 8) = w := by
  apply BitVec.eq_of_getLsbD_eq
  intro k hk
  refine (BitVec.getLsbD_append (x := w.extractLsb' 8 8) (y := w.extractLsb' 0 8)).trans ?_
  by_cases h : k < 8
  · simp [h]
  · have h1 : k - 8 < 8 := by omega
    have h2 : 8 + (k - 8) = k := by omega
    simp [h, h1, h2]

/-- Decoding the bytes of a word is decoding the word. -/
@[simp] theorem decodeBytes_bytesOfWord (w : Word) : decodeBytes (bytesOfWord w) = decode w := by
  simp [decodeBytes, bytesOfWord, opcodeOf_bytes]

end Sys2Proof
end

