-- ==== Sys2Proof/Laws/State.lean ====
section
/-!
SUPPORT. One lemma per field per update of the state, and what the updates do to reading a register
or a byte, so that no proof unfolds a record update.
-/
namespace Sys2Proof.Machine

variable (s : State)

/-! ### `State.setPc` -/

@[simp] theorem State.setPc_mem (w : Word) :
    (s.setPc w).mem = s.mem := rfl
@[simp] theorem State.setPc_pc (w : Word) :
    (s.setPc w).pc = w := rfl
@[simp] theorem State.setPc_v (w : Word) :
    (s.setPc w).v = s.v := rfl
@[simp] theorem State.setPc_index (w : Word) :
    (s.setPc w).index = s.index := rfl
@[simp] theorem State.setPc_stack (w : Word) :
    (s.setPc w).stack = s.stack := rfl
@[simp] theorem State.setPc_sp (w : Word) :
    (s.setPc w).sp = s.sp := rfl
@[simp] theorem State.setPc_keys (w : Word) :
    (s.setPc w).keys = s.keys := rfl
@[simp] theorem State.setPc_dt (w : Word) :
    (s.setPc w).dt = s.dt := rfl
@[simp] theorem State.setPc_st (w : Word) :
    (s.setPc w).st = s.st := rfl
@[simp] theorem State.setPc_fb (w : Word) :
    (s.setPc w).fb = s.fb := rfl
@[simp] theorem State.setPc_halted (w : Word) :
    (s.setPc w).halted = s.halted := rfl
@[simp] theorem State.setPc_faultCause (w : Word) :
    (s.setPc w).faultCause = s.faultCause := rfl
@[simp] theorem State.setPc_faultAddr (w : Word) :
    (s.setPc w).faultAddr = s.faultAddr := rfl
@[simp] theorem State.setPc_faultOp (w : Word) :
    (s.setPc w).faultOp = s.faultOp := rfl
@[simp] theorem State.setPc_font (w : Word) :
    (s.setPc w).font = s.font := rfl
@[simp] theorem State.setPc_draws (w : Word) :
    (s.setPc w).draws = s.draws := rfl
@[simp] theorem State.setPc_getV (w : Word) (r : Reg) :
    (s.setPc w).getV r = s.getV r := rfl
@[simp] theorem State.setPc_byteAt (w : Word) (a' : Nat) :
    (s.setPc w).byteAt a' = s.byteAt a' := rfl
@[simp] theorem State.setPc_memRead (w : Word) (a' : Nat) :
    (s.setPc w).memRead a' = s.memRead a' := rfl

/-! ### `State.setV` -/

@[simp] theorem State.setV_mem (x : Reg) (b : Byte) :
    (s.setV x b).mem = s.mem := rfl
@[simp] theorem State.setV_pc (x : Reg) (b : Byte) :
    (s.setV x b).pc = s.pc := rfl
@[simp] theorem State.setV_v (x : Reg) (b : Byte) :
    (s.setV x b).v = s.v.set x.val b := rfl
@[simp] theorem State.setV_index (x : Reg) (b : Byte) :
    (s.setV x b).index = s.index := rfl
@[simp] theorem State.setV_stack (x : Reg) (b : Byte) :
    (s.setV x b).stack = s.stack := rfl
@[simp] theorem State.setV_sp (x : Reg) (b : Byte) :
    (s.setV x b).sp = s.sp := rfl
@[simp] theorem State.setV_keys (x : Reg) (b : Byte) :
    (s.setV x b).keys = s.keys := rfl
@[simp] theorem State.setV_dt (x : Reg) (b : Byte) :
    (s.setV x b).dt = s.dt := rfl
@[simp] theorem State.setV_st (x : Reg) (b : Byte) :
    (s.setV x b).st = s.st := rfl
@[simp] theorem State.setV_fb (x : Reg) (b : Byte) :
    (s.setV x b).fb = s.fb := rfl
@[simp] theorem State.setV_halted (x : Reg) (b : Byte) :
    (s.setV x b).halted = s.halted := rfl
@[simp] theorem State.setV_faultCause (x : Reg) (b : Byte) :
    (s.setV x b).faultCause = s.faultCause := rfl
@[simp] theorem State.setV_faultAddr (x : Reg) (b : Byte) :
    (s.setV x b).faultAddr = s.faultAddr := rfl
@[simp] theorem State.setV_faultOp (x : Reg) (b : Byte) :
    (s.setV x b).faultOp = s.faultOp := rfl
@[simp] theorem State.setV_font (x : Reg) (b : Byte) :
    (s.setV x b).font = s.font := rfl
@[simp] theorem State.setV_draws (x : Reg) (b : Byte) :
    (s.setV x b).draws = s.draws := rfl
@[simp] theorem State.setV_byteAt (x : Reg) (b : Byte) (a' : Nat) :
    (s.setV x b).byteAt a' = s.byteAt a' := rfl
@[simp] theorem State.setV_memRead (x : Reg) (b : Byte) (a' : Nat) :
    (s.setV x b).memRead a' = s.memRead a' := rfl

/-! ### `State.setIndex` -/

@[simp] theorem State.setIndex_mem (w : Word) :
    (s.setIndex w).mem = s.mem := rfl
@[simp] theorem State.setIndex_pc (w : Word) :
    (s.setIndex w).pc = s.pc := rfl
@[simp] theorem State.setIndex_v (w : Word) :
    (s.setIndex w).v = s.v := rfl
@[simp] theorem State.setIndex_index (w : Word) :
    (s.setIndex w).index = w := rfl
@[simp] theorem State.setIndex_stack (w : Word) :
    (s.setIndex w).stack = s.stack := rfl
@[simp] theorem State.setIndex_sp (w : Word) :
    (s.setIndex w).sp = s.sp := rfl
@[simp] theorem State.setIndex_keys (w : Word) :
    (s.setIndex w).keys = s.keys := rfl
@[simp] theorem State.setIndex_dt (w : Word) :
    (s.setIndex w).dt = s.dt := rfl
@[simp] theorem State.setIndex_st (w : Word) :
    (s.setIndex w).st = s.st := rfl
@[simp] theorem State.setIndex_fb (w : Word) :
    (s.setIndex w).fb = s.fb := rfl
@[simp] theorem State.setIndex_halted (w : Word) :
    (s.setIndex w).halted = s.halted := rfl
@[simp] theorem State.setIndex_faultCause (w : Word) :
    (s.setIndex w).faultCause = s.faultCause := rfl
@[simp] theorem State.setIndex_faultAddr (w : Word) :
    (s.setIndex w).faultAddr = s.faultAddr := rfl
@[simp] theorem State.setIndex_faultOp (w : Word) :
    (s.setIndex w).faultOp = s.faultOp := rfl
@[simp] theorem State.setIndex_font (w : Word) :
    (s.setIndex w).font = s.font := rfl
@[simp] theorem State.setIndex_draws (w : Word) :
    (s.setIndex w).draws = s.draws := rfl
@[simp] theorem State.setIndex_getV (w : Word) (r : Reg) :
    (s.setIndex w).getV r = s.getV r := rfl
@[simp] theorem State.setIndex_byteAt (w : Word) (a' : Nat) :
    (s.setIndex w).byteAt a' = s.byteAt a' := rfl
@[simp] theorem State.setIndex_memRead (w : Word) (a' : Nat) :
    (s.setIndex w).memRead a' = s.memRead a' := rfl

/-! ### `State.setStack` -/

@[simp] theorem State.setStack_mem (k : Vector Word 16) :
    (s.setStack k).mem = s.mem := rfl
@[simp] theorem State.setStack_pc (k : Vector Word 16) :
    (s.setStack k).pc = s.pc := rfl
@[simp] theorem State.setStack_v (k : Vector Word 16) :
    (s.setStack k).v = s.v := rfl
@[simp] theorem State.setStack_index (k : Vector Word 16) :
    (s.setStack k).index = s.index := rfl
@[simp] theorem State.setStack_stack (k : Vector Word 16) :
    (s.setStack k).stack = k := rfl
@[simp] theorem State.setStack_sp (k : Vector Word 16) :
    (s.setStack k).sp = s.sp := rfl
@[simp] theorem State.setStack_keys (k : Vector Word 16) :
    (s.setStack k).keys = s.keys := rfl
@[simp] theorem State.setStack_dt (k : Vector Word 16) :
    (s.setStack k).dt = s.dt := rfl
@[simp] theorem State.setStack_st (k : Vector Word 16) :
    (s.setStack k).st = s.st := rfl
@[simp] theorem State.setStack_fb (k : Vector Word 16) :
    (s.setStack k).fb = s.fb := rfl
@[simp] theorem State.setStack_halted (k : Vector Word 16) :
    (s.setStack k).halted = s.halted := rfl
@[simp] theorem State.setStack_faultCause (k : Vector Word 16) :
    (s.setStack k).faultCause = s.faultCause := rfl
@[simp] theorem State.setStack_faultAddr (k : Vector Word 16) :
    (s.setStack k).faultAddr = s.faultAddr := rfl
@[simp] theorem State.setStack_faultOp (k : Vector Word 16) :
    (s.setStack k).faultOp = s.faultOp := rfl
@[simp] theorem State.setStack_font (k : Vector Word 16) :
    (s.setStack k).font = s.font := rfl
@[simp] theorem State.setStack_draws (k : Vector Word 16) :
    (s.setStack k).draws = s.draws := rfl
@[simp] theorem State.setStack_getV (k : Vector Word 16) (r : Reg) :
    (s.setStack k).getV r = s.getV r := rfl
@[simp] theorem State.setStack_byteAt (k : Vector Word 16) (a' : Nat) :
    (s.setStack k).byteAt a' = s.byteAt a' := rfl
@[simp] theorem State.setStack_memRead (k : Vector Word 16) (a' : Nat) :
    (s.setStack k).memRead a' = s.memRead a' := rfl

/-! ### `State.setSp` -/

@[simp] theorem State.setSp_mem (p : Fin 17) :
    (s.setSp p).mem = s.mem := rfl
@[simp] theorem State.setSp_pc (p : Fin 17) :
    (s.setSp p).pc = s.pc := rfl
@[simp] theorem State.setSp_v (p : Fin 17) :
    (s.setSp p).v = s.v := rfl
@[simp] theorem State.setSp_index (p : Fin 17) :
    (s.setSp p).index = s.index := rfl
@[simp] theorem State.setSp_stack (p : Fin 17) :
    (s.setSp p).stack = s.stack := rfl
@[simp] theorem State.setSp_sp (p : Fin 17) :
    (s.setSp p).sp = p := rfl
@[simp] theorem State.setSp_keys (p : Fin 17) :
    (s.setSp p).keys = s.keys := rfl
@[simp] theorem State.setSp_dt (p : Fin 17) :
    (s.setSp p).dt = s.dt := rfl
@[simp] theorem State.setSp_st (p : Fin 17) :
    (s.setSp p).st = s.st := rfl
@[simp] theorem State.setSp_fb (p : Fin 17) :
    (s.setSp p).fb = s.fb := rfl
@[simp] theorem State.setSp_halted (p : Fin 17) :
    (s.setSp p).halted = s.halted := rfl
@[simp] theorem State.setSp_faultCause (p : Fin 17) :
    (s.setSp p).faultCause = s.faultCause := rfl
@[simp] theorem State.setSp_faultAddr (p : Fin 17) :
    (s.setSp p).faultAddr = s.faultAddr := rfl
@[simp] theorem State.setSp_faultOp (p : Fin 17) :
    (s.setSp p).faultOp = s.faultOp := rfl
@[simp] theorem State.setSp_font (p : Fin 17) :
    (s.setSp p).font = s.font := rfl
@[simp] theorem State.setSp_draws (p : Fin 17) :
    (s.setSp p).draws = s.draws := rfl
@[simp] theorem State.setSp_getV (p : Fin 17) (r : Reg) :
    (s.setSp p).getV r = s.getV r := rfl
@[simp] theorem State.setSp_byteAt (p : Fin 17) (a' : Nat) :
    (s.setSp p).byteAt a' = s.byteAt a' := rfl
@[simp] theorem State.setSp_memRead (p : Fin 17) (a' : Nat) :
    (s.setSp p).memRead a' = s.memRead a' := rfl

/-! ### `State.setKeys` -/

@[simp] theorem State.setKeys_mem (k : Vector Bool 16) :
    (s.setKeys k).mem = s.mem := rfl
@[simp] theorem State.setKeys_pc (k : Vector Bool 16) :
    (s.setKeys k).pc = s.pc := rfl
@[simp] theorem State.setKeys_v (k : Vector Bool 16) :
    (s.setKeys k).v = s.v := rfl
@[simp] theorem State.setKeys_index (k : Vector Bool 16) :
    (s.setKeys k).index = s.index := rfl
@[simp] theorem State.setKeys_stack (k : Vector Bool 16) :
    (s.setKeys k).stack = s.stack := rfl
@[simp] theorem State.setKeys_sp (k : Vector Bool 16) :
    (s.setKeys k).sp = s.sp := rfl
@[simp] theorem State.setKeys_keys (k : Vector Bool 16) :
    (s.setKeys k).keys = k := rfl
@[simp] theorem State.setKeys_dt (k : Vector Bool 16) :
    (s.setKeys k).dt = s.dt := rfl
@[simp] theorem State.setKeys_st (k : Vector Bool 16) :
    (s.setKeys k).st = s.st := rfl
@[simp] theorem State.setKeys_fb (k : Vector Bool 16) :
    (s.setKeys k).fb = s.fb := rfl
@[simp] theorem State.setKeys_halted (k : Vector Bool 16) :
    (s.setKeys k).halted = s.halted := rfl
@[simp] theorem State.setKeys_faultCause (k : Vector Bool 16) :
    (s.setKeys k).faultCause = s.faultCause := rfl
@[simp] theorem State.setKeys_faultAddr (k : Vector Bool 16) :
    (s.setKeys k).faultAddr = s.faultAddr := rfl
@[simp] theorem State.setKeys_faultOp (k : Vector Bool 16) :
    (s.setKeys k).faultOp = s.faultOp := rfl
@[simp] theorem State.setKeys_font (k : Vector Bool 16) :
    (s.setKeys k).font = s.font := rfl
@[simp] theorem State.setKeys_draws (k : Vector Bool 16) :
    (s.setKeys k).draws = s.draws := rfl
@[simp] theorem State.setKeys_getV (k : Vector Bool 16) (r : Reg) :
    (s.setKeys k).getV r = s.getV r := rfl
@[simp] theorem State.setKeys_byteAt (k : Vector Bool 16) (a' : Nat) :
    (s.setKeys k).byteAt a' = s.byteAt a' := rfl
@[simp] theorem State.setKeys_memRead (k : Vector Bool 16) (a' : Nat) :
    (s.setKeys k).memRead a' = s.memRead a' := rfl

/-! ### `State.setDt` -/

@[simp] theorem State.setDt_mem (b : Byte) :
    (s.setDt b).mem = s.mem := rfl
@[simp] theorem State.setDt_pc (b : Byte) :
    (s.setDt b).pc = s.pc := rfl
@[simp] theorem State.setDt_v (b : Byte) :
    (s.setDt b).v = s.v := rfl
@[simp] theorem State.setDt_index (b : Byte) :
    (s.setDt b).index = s.index := rfl
@[simp] theorem State.setDt_stack (b : Byte) :
    (s.setDt b).stack = s.stack := rfl
@[simp] theorem State.setDt_sp (b : Byte) :
    (s.setDt b).sp = s.sp := rfl
@[simp] theorem State.setDt_keys (b : Byte) :
    (s.setDt b).keys = s.keys := rfl
@[simp] theorem State.setDt_dt (b : Byte) :
    (s.setDt b).dt = b := rfl
@[simp] theorem State.setDt_st (b : Byte) :
    (s.setDt b).st = s.st := rfl
@[simp] theorem State.setDt_fb (b : Byte) :
    (s.setDt b).fb = s.fb := rfl
@[simp] theorem State.setDt_halted (b : Byte) :
    (s.setDt b).halted = s.halted := rfl
@[simp] theorem State.setDt_faultCause (b : Byte) :
    (s.setDt b).faultCause = s.faultCause := rfl
@[simp] theorem State.setDt_faultAddr (b : Byte) :
    (s.setDt b).faultAddr = s.faultAddr := rfl
@[simp] theorem State.setDt_faultOp (b : Byte) :
    (s.setDt b).faultOp = s.faultOp := rfl
@[simp] theorem State.setDt_font (b : Byte) :
    (s.setDt b).font = s.font := rfl
@[simp] theorem State.setDt_draws (b : Byte) :
    (s.setDt b).draws = s.draws := rfl
@[simp] theorem State.setDt_getV (b : Byte) (r : Reg) :
    (s.setDt b).getV r = s.getV r := rfl
@[simp] theorem State.setDt_byteAt (b : Byte) (a' : Nat) :
    (s.setDt b).byteAt a' = s.byteAt a' := rfl
@[simp] theorem State.setDt_memRead (b : Byte) (a' : Nat) :
    (s.setDt b).memRead a' = s.memRead a' := rfl

/-! ### `State.setSt` -/

@[simp] theorem State.setSt_mem (b : Byte) :
    (s.setSt b).mem = s.mem := rfl
@[simp] theorem State.setSt_pc (b : Byte) :
    (s.setSt b).pc = s.pc := rfl
@[simp] theorem State.setSt_v (b : Byte) :
    (s.setSt b).v = s.v := rfl
@[simp] theorem State.setSt_index (b : Byte) :
    (s.setSt b).index = s.index := rfl
@[simp] theorem State.setSt_stack (b : Byte) :
    (s.setSt b).stack = s.stack := rfl
@[simp] theorem State.setSt_sp (b : Byte) :
    (s.setSt b).sp = s.sp := rfl
@[simp] theorem State.setSt_keys (b : Byte) :
    (s.setSt b).keys = s.keys := rfl
@[simp] theorem State.setSt_dt (b : Byte) :
    (s.setSt b).dt = s.dt := rfl
@[simp] theorem State.setSt_st (b : Byte) :
    (s.setSt b).st = b := rfl
@[simp] theorem State.setSt_fb (b : Byte) :
    (s.setSt b).fb = s.fb := rfl
@[simp] theorem State.setSt_halted (b : Byte) :
    (s.setSt b).halted = s.halted := rfl
@[simp] theorem State.setSt_faultCause (b : Byte) :
    (s.setSt b).faultCause = s.faultCause := rfl
@[simp] theorem State.setSt_faultAddr (b : Byte) :
    (s.setSt b).faultAddr = s.faultAddr := rfl
@[simp] theorem State.setSt_faultOp (b : Byte) :
    (s.setSt b).faultOp = s.faultOp := rfl
@[simp] theorem State.setSt_font (b : Byte) :
    (s.setSt b).font = s.font := rfl
@[simp] theorem State.setSt_draws (b : Byte) :
    (s.setSt b).draws = s.draws := rfl
@[simp] theorem State.setSt_getV (b : Byte) (r : Reg) :
    (s.setSt b).getV r = s.getV r := rfl
@[simp] theorem State.setSt_byteAt (b : Byte) (a' : Nat) :
    (s.setSt b).byteAt a' = s.byteAt a' := rfl
@[simp] theorem State.setSt_memRead (b : Byte) (a' : Nat) :
    (s.setSt b).memRead a' = s.memRead a' := rfl

/-! ### `State.setFb` -/

@[simp] theorem State.setFb_mem (f : Framebuffer) :
    (s.setFb f).mem = s.mem := rfl
@[simp] theorem State.setFb_pc (f : Framebuffer) :
    (s.setFb f).pc = s.pc := rfl
@[simp] theorem State.setFb_v (f : Framebuffer) :
    (s.setFb f).v = s.v := rfl
@[simp] theorem State.setFb_index (f : Framebuffer) :
    (s.setFb f).index = s.index := rfl
@[simp] theorem State.setFb_stack (f : Framebuffer) :
    (s.setFb f).stack = s.stack := rfl
@[simp] theorem State.setFb_sp (f : Framebuffer) :
    (s.setFb f).sp = s.sp := rfl
@[simp] theorem State.setFb_keys (f : Framebuffer) :
    (s.setFb f).keys = s.keys := rfl
@[simp] theorem State.setFb_dt (f : Framebuffer) :
    (s.setFb f).dt = s.dt := rfl
@[simp] theorem State.setFb_st (f : Framebuffer) :
    (s.setFb f).st = s.st := rfl
@[simp] theorem State.setFb_fb (f : Framebuffer) :
    (s.setFb f).fb = f := rfl
@[simp] theorem State.setFb_halted (f : Framebuffer) :
    (s.setFb f).halted = s.halted := rfl
@[simp] theorem State.setFb_faultCause (f : Framebuffer) :
    (s.setFb f).faultCause = s.faultCause := rfl
@[simp] theorem State.setFb_faultAddr (f : Framebuffer) :
    (s.setFb f).faultAddr = s.faultAddr := rfl
@[simp] theorem State.setFb_faultOp (f : Framebuffer) :
    (s.setFb f).faultOp = s.faultOp := rfl
@[simp] theorem State.setFb_font (f : Framebuffer) :
    (s.setFb f).font = s.font := rfl
@[simp] theorem State.setFb_draws (f : Framebuffer) :
    (s.setFb f).draws = s.draws := rfl
@[simp] theorem State.setFb_getV (f : Framebuffer) (r : Reg) :
    (s.setFb f).getV r = s.getV r := rfl
@[simp] theorem State.setFb_byteAt (f : Framebuffer) (a' : Nat) :
    (s.setFb f).byteAt a' = s.byteAt a' := rfl
@[simp] theorem State.setFb_memRead (f : Framebuffer) (a' : Nat) :
    (s.setFb f).memRead a' = s.memRead a' := rfl

/-! ### `State.setMem` -/

@[simp] theorem State.setMem_mem (m : Memory) :
    (s.setMem m).mem = m := rfl
@[simp] theorem State.setMem_pc (m : Memory) :
    (s.setMem m).pc = s.pc := rfl
@[simp] theorem State.setMem_v (m : Memory) :
    (s.setMem m).v = s.v := rfl
@[simp] theorem State.setMem_index (m : Memory) :
    (s.setMem m).index = s.index := rfl
@[simp] theorem State.setMem_stack (m : Memory) :
    (s.setMem m).stack = s.stack := rfl
@[simp] theorem State.setMem_sp (m : Memory) :
    (s.setMem m).sp = s.sp := rfl
@[simp] theorem State.setMem_keys (m : Memory) :
    (s.setMem m).keys = s.keys := rfl
@[simp] theorem State.setMem_dt (m : Memory) :
    (s.setMem m).dt = s.dt := rfl
@[simp] theorem State.setMem_st (m : Memory) :
    (s.setMem m).st = s.st := rfl
@[simp] theorem State.setMem_fb (m : Memory) :
    (s.setMem m).fb = s.fb := rfl
@[simp] theorem State.setMem_halted (m : Memory) :
    (s.setMem m).halted = s.halted := rfl
@[simp] theorem State.setMem_faultCause (m : Memory) :
    (s.setMem m).faultCause = s.faultCause := rfl
@[simp] theorem State.setMem_faultAddr (m : Memory) :
    (s.setMem m).faultAddr = s.faultAddr := rfl
@[simp] theorem State.setMem_faultOp (m : Memory) :
    (s.setMem m).faultOp = s.faultOp := rfl
@[simp] theorem State.setMem_font (m : Memory) :
    (s.setMem m).font = s.font := rfl
@[simp] theorem State.setMem_draws (m : Memory) :
    (s.setMem m).draws = s.draws := rfl
@[simp] theorem State.setMem_getV (m : Memory) (r : Reg) :
    (s.setMem m).getV r = s.getV r := rfl

/-! ### `State.nextDraw` -/

@[simp] theorem State.nextDraw_mem :
    (s.nextDraw).mem = s.mem := rfl
@[simp] theorem State.nextDraw_pc :
    (s.nextDraw).pc = s.pc := rfl
@[simp] theorem State.nextDraw_v :
    (s.nextDraw).v = s.v := rfl
@[simp] theorem State.nextDraw_index :
    (s.nextDraw).index = s.index := rfl
@[simp] theorem State.nextDraw_stack :
    (s.nextDraw).stack = s.stack := rfl
@[simp] theorem State.nextDraw_sp :
    (s.nextDraw).sp = s.sp := rfl
@[simp] theorem State.nextDraw_keys :
    (s.nextDraw).keys = s.keys := rfl
@[simp] theorem State.nextDraw_dt :
    (s.nextDraw).dt = s.dt := rfl
@[simp] theorem State.nextDraw_st :
    (s.nextDraw).st = s.st := rfl
@[simp] theorem State.nextDraw_fb :
    (s.nextDraw).fb = s.fb := rfl
@[simp] theorem State.nextDraw_halted :
    (s.nextDraw).halted = s.halted := rfl
@[simp] theorem State.nextDraw_faultCause :
    (s.nextDraw).faultCause = s.faultCause := rfl
@[simp] theorem State.nextDraw_faultAddr :
    (s.nextDraw).faultAddr = s.faultAddr := rfl
@[simp] theorem State.nextDraw_faultOp :
    (s.nextDraw).faultOp = s.faultOp := rfl
@[simp] theorem State.nextDraw_font :
    (s.nextDraw).font = s.font := rfl
@[simp] theorem State.nextDraw_draws :
    (s.nextDraw).draws = s.draws + 1 := rfl
@[simp] theorem State.nextDraw_getV (r : Reg) :
    (s.nextDraw).getV r = s.getV r := rfl
@[simp] theorem State.nextDraw_byteAt (a' : Nat) :
    (s.nextDraw).byteAt a' = s.byteAt a' := rfl
@[simp] theorem State.nextDraw_memRead (a' : Nat) :
    (s.nextDraw).memRead a' = s.memRead a' := rfl

/-! ### `State.setLatch` -/

@[simp] theorem State.setLatch_mem (c : FaultCause) (a o : Word) :
    (s.setLatch c a o).mem = s.mem := rfl
@[simp] theorem State.setLatch_pc (c : FaultCause) (a o : Word) :
    (s.setLatch c a o).pc = s.pc := rfl
@[simp] theorem State.setLatch_v (c : FaultCause) (a o : Word) :
    (s.setLatch c a o).v = s.v := rfl
@[simp] theorem State.setLatch_index (c : FaultCause) (a o : Word) :
    (s.setLatch c a o).index = s.index := rfl
@[simp] theorem State.setLatch_stack (c : FaultCause) (a o : Word) :
    (s.setLatch c a o).stack = s.stack := rfl
@[simp] theorem State.setLatch_sp (c : FaultCause) (a o : Word) :
    (s.setLatch c a o).sp = s.sp := rfl
@[simp] theorem State.setLatch_keys (c : FaultCause) (a o : Word) :
    (s.setLatch c a o).keys = s.keys := rfl
@[simp] theorem State.setLatch_dt (c : FaultCause) (a o : Word) :
    (s.setLatch c a o).dt = s.dt := rfl
@[simp] theorem State.setLatch_st (c : FaultCause) (a o : Word) :
    (s.setLatch c a o).st = s.st := rfl
@[simp] theorem State.setLatch_fb (c : FaultCause) (a o : Word) :
    (s.setLatch c a o).fb = s.fb := rfl
@[simp] theorem State.setLatch_halted (c : FaultCause) (a o : Word) :
    (s.setLatch c a o).halted = true := rfl
@[simp] theorem State.setLatch_faultCause (c : FaultCause) (a o : Word) :
    (s.setLatch c a o).faultCause = c := rfl
@[simp] theorem State.setLatch_faultAddr (c : FaultCause) (a o : Word) :
    (s.setLatch c a o).faultAddr = a := rfl
@[simp] theorem State.setLatch_faultOp (c : FaultCause) (a o : Word) :
    (s.setLatch c a o).faultOp = o := rfl
@[simp] theorem State.setLatch_font (c : FaultCause) (a o : Word) :
    (s.setLatch c a o).font = s.font := rfl
@[simp] theorem State.setLatch_draws (c : FaultCause) (a o : Word) :
    (s.setLatch c a o).draws = s.draws := rfl
@[simp] theorem State.setLatch_getV (c : FaultCause) (a o : Word) (r : Reg) :
    (s.setLatch c a o).getV r = s.getV r := rfl
@[simp] theorem State.setLatch_byteAt (c : FaultCause) (a o : Word) (a' : Nat) :
    (s.setLatch c a o).byteAt a' = s.byteAt a' := rfl
@[simp] theorem State.setLatch_memRead (c : FaultCause) (a o : Word) (a' : Nat) :
    (s.setLatch c a o).memRead a' = s.memRead a' := rfl

/-- The later of two writes of pc remains. -/
@[simp] theorem State.setPc_setPc (w w' : Word) : (s.setPc w).setPc w' = s.setPc w' := rfl

/-! ### Reading back a register -/

/-- The register written reads as written. -/
@[simp] theorem State.getV_setV_same (x : Reg) (b : Byte) : (s.setV x b).getV x = b := by
  simp [State.getV]

/-- Every other register reads as before. -/
theorem State.getV_setV_ne {x r : Reg} (b : Byte) (h : r ≠ x) : (s.setV x b).getV r = s.getV r := by
  have : x.val ≠ r.val := fun e => h (Fin.ext e.symm)
  simp [State.getV, this]

/-- Both cases at once. -/
theorem State.getV_setV (x r : Reg) (b : Byte) :
    (s.setV x b).getV r = if r = x then b else s.getV r := by
  split
  · next h => subst h; simp
  · next h => exact State.getV_setV_ne s b h

end Sys2Proof.Machine
end

