-- ==== Sys2Proof/Laws/Memory.lean ====
section
/-!
SUPPORT. Memory: the canonical form is kept by every memory operation, and a byte reads as it was
last written (spec/20_memory.md rules R53, R54).
-/
namespace Sys2Proof.Machine

/-- The byte a memory holds at an address: what `State.byteAt` reads. -/
def Memory.read (font : Config.Font) (m : Memory) (a : Nat) : Byte :=
  (m.lookup a).getD (unlistedByte font a)

theorem State.byteAt_eq_read (s : State) (a : Nat) : s.byteAt a = s.mem.read s.font a := rfl

/-! ### The canonical form -/

theorem Memory.wfFrom_cons {font : Config.Font} {low k : Nat} {c : Byte} {rest : Memory} :
    Memory.wfFrom font low ((k, c) :: rest) = true ↔
      low ≤ k ∧ k < Config.memSize ∧ c ≠ unlistedByte font k ∧ rest.wfFrom font (k + 1) = true := by
  simp [Memory.wfFrom, and_assoc]

/-- The empty memory, that of reset, is canonical. -/
theorem Memory.wf_nil (font : Config.Font) : Memory.wf font [] = true := rfl

/-- So the memory of reset is canonical. -/
theorem State.reset_memory_wf : Memory.wf State.reset.font State.reset.mem = true := rfl

theorem Memory.wfFrom_mono {font : Config.Font} {low low' : Nat} {m : Memory} (h : low' ≤ low)
    (hm : m.wfFrom font low = true) : m.wfFrom font low' = true := by
  cases m with
  | nil => rfl
  | cons kc rest =>
    obtain ⟨k, c⟩ := kc
    rw [Memory.wfFrom_cons] at hm ⊢
    exact ⟨h.trans hm.1, hm.2⟩

/-- No address below the bound is listed. -/
theorem Memory.lookup_below {font : Config.Font} {low a : Nat} {m : Memory}
    (hm : m.wfFrom font low = true) (ha : a < low) : m.lookup a = none := by
  induction m generalizing low with
  | nil => rfl
  | cons kc rest ih =>
    obtain ⟨k, c⟩ := kc
    rw [Memory.wfFrom_cons] at hm
    have : k ≠ a := by omega
    simp only [Memory.lookup, this, if_false]
    exact ih hm.2.2.2 (by omega)

theorem Memory.wfFrom_consCell {font : Config.Font} {low a : Nat} {b : Byte} {rest : Memory}
    (hl : low ≤ a) (ha : a < Config.memSize) (hr : rest.wfFrom font (a + 1) = true) :
    (Memory.consCell font a b rest).wfFrom font low = true := by
  unfold Memory.consCell
  split
  · exact Memory.wfFrom_mono (by omega) hr
  · next hb => exact Memory.wfFrom_cons.2 ⟨hl, ha, hb, hr⟩

theorem Memory.wfFrom_write {font : Config.Font} {low a : Nat} {b : Byte} {m : Memory}
    (hm : m.wfFrom font low = true) (hl : low ≤ a) (ha : a < Config.memSize) :
    (Memory.write font m a b).wfFrom font low = true := by
  induction m generalizing low with
  | nil => exact Memory.wfFrom_consCell hl ha rfl
  | cons kc rest ih =>
    obtain ⟨k, c⟩ := kc
    have h := Memory.wfFrom_cons.1 hm
    unfold Memory.write
    split
    · next hk =>
      exact Memory.wfFrom_consCell hl ha (Memory.wfFrom_cons.2 ⟨by omega, h.2⟩)
    · split
      · next hk => subst hk; exact Memory.wfFrom_consCell hl ha h.2.2.2
      · exact Memory.wfFrom_cons.2 ⟨h.1, h.2.1, h.2.2.1, ih h.2.2.2 (by omega)⟩

/-- A store keeps the canonical form. -/
theorem Memory.wf_write {font : Config.Font} {m : Memory} {a : Nat} (b : Byte)
    (hm : Memory.wf font m = true) (ha : a < Config.memSize) :
    Memory.wf font (Memory.write font m a b) = true :=
  Memory.wfFrom_write hm (Nat.zero_le a) ha

/-! ### Reading after a store -/

theorem Memory.read_consCell {font : Config.Font} {a a' : Nat} {b : Byte} {rest : Memory}
    (hr : rest.wfFrom font (a + 1) = true) :
    (Memory.consCell font a b rest).read font a' = if a' = a then b else rest.read font a' := by
  unfold Memory.consCell
  split
  · next hb =>
    split
    · next he => subst he; simp [Memory.read, Memory.lookup_below hr (Nat.lt_succ_self _), hb]
    · rfl
  · by_cases he : a' = a
    · subst he; simp [Memory.read, Memory.lookup]
    · have : a ≠ a' := fun e => he e.symm
      simp [Memory.read, Memory.lookup, he, this]

theorem Memory.read_cons_ne {font : Config.Font} {k a : Nat} {c : Byte} {rest : Memory} (h : k ≠ a) :
    Memory.read font ((k, c) :: rest) a = rest.read font a := by
  simp [Memory.read, Memory.lookup, h]

theorem Memory.read_write_from {font : Config.Font} {low a a' : Nat} {b : Byte} {m : Memory}
    (hm : m.wfFrom font low = true) :
    (Memory.write font m a b).read font a' = if a' = a then b else m.read font a' := by
  induction m generalizing low with
  | nil => exact Memory.read_consCell rfl
  | cons kc rest ih =>
    obtain ⟨k, c⟩ := kc
    have h := Memory.wfFrom_cons.1 hm
    unfold Memory.write
    split
    · next hk => exact Memory.read_consCell (Memory.wfFrom_cons.2 ⟨by omega, h.2⟩)
    · split
      · next hk =>
        subst hk
        rw [Memory.read_consCell h.2.2.2]
        split
        · rfl
        · next hne => exact (Memory.read_cons_ne fun e => hne e.symm).symm
      · next hk1 hk2 =>
        by_cases hka : k = a'
        · subst hka
          have : k ≠ a := fun e => hk2 e.symm
          simp [Memory.read, Memory.lookup, this]
        · rw [Memory.read_cons_ne hka, Memory.read_cons_ne hka, ih h.2.2.2]

/-- The address written reads as written, every other address as before. -/
theorem Memory.read_write {font : Config.Font} {m : Memory} (a a' : Nat) (b : Byte)
    (hm : Memory.wf font m = true) :
    (Memory.write font m a b).read font a' = if a' = a then b else m.read font a' :=
  Memory.read_write_from hm

/-! ### The operations of the state -/

/-- What one store can do. -/
theorem State.memWrite_cases (s : State) (a : Nat) (b : Byte) :
    (a < Config.memSize ∧ s.memWrite a b = s.setMem (Memory.write s.font s.mem a b)) ∨
      (Config.memSize ≤ a ∧ s.memWrite a b = s) := by
  unfold State.memWrite
  split
  · next h => exact .inl ⟨h, rfl⟩
  · next h => exact .inr ⟨by omega, rfl⟩

/-- A store changes the memory alone. -/
theorem State.memWrite_eq (s : State) (a : Nat) (b : Byte) :
    ∃ m, s.memWrite a b = s.setMem m := by
  obtain ⟨-, h⟩ | ⟨-, h⟩ := s.memWrite_cases a b
  · exact ⟨_, h⟩
  · exact ⟨s.mem, h⟩

theorem State.memWrite_wf (s : State) (a : Nat) (b : Byte) (hs : Memory.wf s.font s.mem = true) :
    Memory.wf (s.memWrite a b).font (s.memWrite a b).mem = true := by
  obtain ⟨ha, h⟩ | ⟨-, h⟩ := s.memWrite_cases a b <;> rw [h]
  · exact Memory.wf_write b hs ha
  · exact hs

theorem State.memWrite_byteAt (s : State) {a : Nat} (a' : Nat) (b : Byte)
    (hs : Memory.wf s.font s.mem = true) (ha : a < Config.memSize) :
    (s.memWrite a b).byteAt a' = if a' = a then b else s.byteAt a' := by
  obtain ⟨-, h⟩ | ⟨h, -⟩ := s.memWrite_cases a b
  · rw [h]; exact Memory.read_write a a' b hs
  · omega

/-- Storing bytes changes the memory alone. -/
theorem State.memWriteAll_eq (bytes : List Byte) (s : State) (a : Nat) :
    ∃ m, s.memWriteAll a bytes = s.setMem m := by
  induction bytes generalizing s a with
  | nil => exact ⟨s.mem, rfl⟩
  | cons b bs ih =>
    obtain ⟨m, hm⟩ := s.memWrite_eq a b
    obtain ⟨m', hm'⟩ := ih (s.memWrite a b) (a + 1)
    exact ⟨m', by rw [State.memWriteAll, hm', hm]; rfl⟩

theorem State.memWriteAll_wf (bytes : List Byte) (s : State) (a : Nat)
    (hs : Memory.wf s.font s.mem = true) :
    Memory.wf (s.memWriteAll a bytes).font (s.memWriteAll a bytes).mem = true := by
  induction bytes generalizing s a with
  | nil => exact hs
  | cons b bs ih => exact ih _ _ (s.memWrite_wf a b hs)

end Sys2Proof.Machine
end

