-- ==== Sys2Proof/Laws/Ops.lean ====
section
/-!
SUPPORT. One lemma for each shared operation that says everything it can do.
-/
namespace Sys2Proof.Machine

/-! ### The program counter -/

/-- A skip moves pc by 2 or does nothing (R114). -/
theorem State.skipIf_eq (s : State) (c : Bool) :
    s.skipIf c = s.setPc (if c then s.pc + 2 else s.pc) := by
  cases c <;> rfl

/-- The fetch answers an opcode exactly when both bytes exist (R91). -/
theorem State.fetch_cases (s : State) :
    (s.pc.toNat ≤ 0xFFE ∧
      s.fetch = some (opcodeOf (s.byteAt s.pc.toNat) (s.byteAt (s.pc.toNat + 1)))) ∨
      (0xFFF ≤ s.pc.toNat ∧ s.fetch = none) := by
  unfold State.fetch State.fetchAt
  split
  · next h => exact .inr ⟨by omega, rfl⟩
  · next h => exact .inl ⟨by omega, rfl⟩

/-! ### The return stack -/

/-- A push stores at `sp` and counts one more, or fails on a full stack (R29). -/
theorem State.push_cases (s : State) (w : Word) :
    (∃ h : s.sp.val < 16,
      s.push w = some ((s.setStack (s.stack.set s.sp.val w)).setSp ⟨s.sp.val + 1, by omega⟩)) ∨
      (s.sp.val = 16 ∧ s.push w = none) := by
  unfold State.push
  split
  · next h => exact .inl ⟨h, rfl⟩
  · next h => exact .inr ⟨by omega, rfl⟩

/-- A pop reads below `sp` and counts one less, or fails on an empty stack (R30). -/
theorem State.pop_cases (s : State) :
    (∃ h : 0 < s.sp.val,
      s.pop = some (s.stack[s.sp.val - 1]'(by omega), s.setSp ⟨s.sp.val - 1, by omega⟩)) ∨
      (s.sp.val = 0 ∧ s.pop = none) := by
  unfold State.pop
  split
  · next h => exact .inr ⟨h, rfl⟩
  · next h => exact .inl ⟨by omega, rfl⟩

/-! ### Memory reads -/

/-- `readBytes` answers exactly when every address exists (R151). -/
theorem State.readBytes_cases (s : State) (base n : Nat) :
    ((n = 0 ∨ base + n - 1 ≤ 0xFFF) ∧
      s.readBytes base n = some ((List.range n).map fun r => s.byteAt (base + r))) ∨
      (n > 0 ∧ base + n - 1 > 0xFFF ∧ s.readBytes base n = none) := by
  unfold State.readBytes
  split
  · next h => exact .inr ⟨h.1, h.2, rfl⟩
  · next h => exact .inl ⟨by omega, rfl⟩

/-! ### Keys -/

/-- A key index is accepted exactly when it is at most 15 (R160). -/
theorem keyOperand_cases (b : Byte) :
    (∃ h : b.toNat < 16, keyOperand b = some ⟨b.toNat, h⟩) ∨
      (16 ≤ b.toNat ∧ keyOperand b = none) := by
  unfold keyOperand
  split
  · next h => exact .inl ⟨h, rfl⟩
  · next h => exact .inr ⟨by omega, rfl⟩

/-- The key found is pressed. -/
theorem lowestPressed_pressed {keys : Vector Bool 16} {k : Reg} (h : lowestPressed keys = some k) :
    keys[k.val] = true := by
  simpa using List.find?_some h

/-- No key is found exactly when none is pressed. -/
theorem lowestPressed_none {keys : Vector Bool 16} :
    lowestPressed keys = none ↔ ∀ k : Reg, keys[k.val] = false := by
  simp [lowestPressed, List.find?_eq_none]

/-! ### Registers and the flag -/

/-- The flag is what remains in VF (R132). -/
@[simp] theorem State.writeWithFlag_flag (s : State) (x : Reg) (b : Byte) (f : Bool) :
    (s.writeWithFlag x b f).getV regF = flagByte f := by
  simp [State.writeWithFlag]

/-- A destination other than VF holds the result. -/
theorem State.writeWithFlag_result (s : State) {x : Reg} (b : Byte) (f : Bool) (h : x ≠ regF) :
    (s.writeWithFlag x b f).getV x = b := by
  rw [State.writeWithFlag, State.getV_setV_ne _ _ h, State.getV_setV_same]

/-- Every other register reads as before. -/
theorem State.writeWithFlag_other (s : State) {x r : Reg} (b : Byte) (f : Bool) (hx : r ≠ x)
    (hf : r ≠ regF) : (s.writeWithFlag x b f).getV r = s.getV r := by
  rw [State.writeWithFlag, State.getV_setV_ne _ _ hf, State.getV_setV_ne _ _ hx]

/-! ### The framebuffer -/

/-- A toggle flips its pixel and leaves every other as it is (R151). -/
theorem Framebuffer.pixel_toggle (f : Framebuffer) (x x' : Fin 64) (y y' : Fin 32) :
    (f.toggle x y).pixel x' y' = (f.pixel x' y' ^^ (decide (x' = x) && decide (y' = y))) := by
  unfold Framebuffer.toggle Framebuffer.pixel
  by_cases hy : y' = y
  · subst hy
    by_cases hx : x' = x
    · subst hx; simp
    · have : ¬ x'.val = x.val := fun e => hx (Fin.ext e)
      simp [this, hx]
  · have : y.val ≠ y'.val := fun e => hy (Fin.ext e.symm)
    simp [Vector.getElem_set_ne _ _ this, hy]

/-- The cleared framebuffer has every pixel off (R150). -/
@[simp] theorem Framebuffer.pixel_allOff (x : Fin 64) (y : Fin 32) :
    Framebuffer.allOff.pixel x y = false := by
  simp [Framebuffer.allOff, Framebuffer.pixel]

/-! ### Taking a fault -/

/-- A fault writes the latch and nothing else (R186). -/
theorem State.raise_faultEntered (s : State) (cause : FaultCause) (addr op : Word) :
    FaultEntered cause addr op s (s.raise cause addr op) := by
  refine ⟨rfl, rfl, rfl, rfl, fun _ _ => rfl, fun p hp => ?_⟩
  cases p <;> first | rfl | exact fun _ => rfl | exact fun _ _ => rfl | simp at hp

/-- A fault in the execute stage is a next state with the fault entered there (R186). -/
theorem raiseInExecute_gives (cause : FaultCause) (i : Instr) (s : State) :
    ∃ t, raiseInExecute cause i s = .next t ∧ FaultEntered cause (s.pc - 2) (encode i) s t :=
  ⟨_, rfl, State.raise_faultEntered s cause _ _⟩

/-! ### The step -/

/-- Everything a step can do (R90 to R95). -/
theorem step_cases (s : State) :
    (s.halted = true ∧ step s = .fault (.latched s.faultCause)) ∨
    (s.halted = false ∧ s.fetch = none ∧ step s = .next s.raiseInFetch) ∨
    (∃ op g, s.halted = false ∧ s.fetch = some op ∧ decode op = .illegal g ∧
      step s = .next (s.advance.raiseInDecode op)) ∨
    (∃ op i, s.halted = false ∧ s.fetch = some op ∧ decode op = .instr i ∧
      step s = exec i s.advance) := by
  unfold step
  cases hh : s.halted with
  | true => exact .inl ⟨rfl, rfl⟩
  | false =>
    cases hf : s.fetch with
    | none => exact .inr (.inl ⟨rfl, rfl, rfl⟩)
    | some op =>
      cases hd : decode op with
      | illegal g => exact .inr (.inr (.inl ⟨op, g, rfl, rfl, hd, by simp [decodeAndExec, hd]⟩))
      | instr i => exact .inr (.inr (.inr ⟨op, i, rfl, rfl, hd, by simp [decodeAndExec, hd]⟩))

end Sys2Proof.Machine
end

