-- ==== Sys2Proof/Laws/PerInstr.lean ====
section
/-!
SUPPORT. The family EncodeMatchesRow: the word of an instruction stands in its row of the opcode map
(spec/30_encoding.md rules R72, R75), one lemma per constructor.
-/
namespace Sys2Proof.Laws.EncodeMatchesRow

/-- The masked word is the row's match. -/
def Statement (i : Instr) : Prop := encode i &&& i.row.2 = i.row.1

theorem nop : Statement .nop := rfl

theorem cls : Statement .cls := rfl

theorem ret : Statement .ret := rfl

theorem jp (nnn : Addr12) : Statement (.jp nnn) := formatA_mask _ nnn

theorem call (nnn : Addr12) : Statement (.call nnn) := formatA_mask _ nnn

theorem seImm (x : Reg) (nn : Byte) : Statement (.seImm x nn) := formatI_mask _ x nn

theorem sneImm (x : Reg) (nn : Byte) : Statement (.sneImm x nn) := formatI_mask _ x nn

theorem seReg (x y : Reg) : Statement (.seReg x y) := formatR_mask _ x y _

theorem ldImm (x : Reg) (nn : Byte) : Statement (.ldImm x nn) := formatI_mask _ x nn

theorem addImm (x : Reg) (nn : Byte) : Statement (.addImm x nn) := formatI_mask _ x nn

theorem ldReg (x y : Reg) : Statement (.ldReg x y) := formatR_mask _ x y _

theorem orReg (x y : Reg) : Statement (.orReg x y) := formatR_mask _ x y _

theorem andReg (x y : Reg) : Statement (.andReg x y) := formatR_mask _ x y _

theorem xorReg (x y : Reg) : Statement (.xorReg x y) := formatR_mask _ x y _

theorem addReg (x y : Reg) : Statement (.addReg x y) := formatR_mask _ x y _

theorem subReg (x y : Reg) : Statement (.subReg x y) := formatR_mask _ x y _

theorem shr (x y : Reg) : Statement (.shr x y) := formatR_mask _ x y _

theorem subnReg (x y : Reg) : Statement (.subnReg x y) := formatR_mask _ x y _

theorem shl (x y : Reg) : Statement (.shl x y) := formatR_mask _ x y _

theorem sneReg (x y : Reg) : Statement (.sneReg x y) := formatR_mask _ x y _

theorem ldIndex (nnn : Addr12) : Statement (.ldIndex nnn) := formatA_mask _ nnn

theorem jpV0 (nnn : Addr12) : Statement (.jpV0 nnn) := formatA_mask _ nnn

theorem rnd (x : Reg) (nn : Byte) : Statement (.rnd x nn) := formatI_mask _ x nn

theorem drw (x y : Reg) (n : Nat) : Statement (.drw x y n) := formatD_mask _ x y _

theorem skp (x : Reg) : Statement (.skp x) := formatK_mask _ x _

theorem sknp (x : Reg) : Statement (.sknp x) := formatK_mask _ x _

theorem ldFromDelay (x : Reg) : Statement (.ldFromDelay x) := formatK_mask _ x _

theorem ldKey (x : Reg) : Statement (.ldKey x) := formatK_mask _ x _

theorem ldDelay (x : Reg) : Statement (.ldDelay x) := formatK_mask _ x _

theorem ldSound (x : Reg) : Statement (.ldSound x) := formatK_mask _ x _

theorem addIndex (x : Reg) : Statement (.addIndex x) := formatK_mask _ x _

theorem ldFont (x : Reg) : Statement (.ldFont x) := formatK_mask _ x _

end Sys2Proof.Laws.EncodeMatchesRow
end

