-- ==== Sys2Proof/Tests/Slice0.lean ====
section
/-!
SUPPORT. The model's own tests. Words and results are those of spec/95_test_vectors.md (the vector is
named in the comment), or of the rule named; then, for each obligation with hypotheses, a witness.
-/
namespace Sys2Proof.Tests

open Sys2Proof.Machine

/-! ### WellFormed: the one check refuses an ill-formed term -/

theorem test_wf_refuses_row_count_16 : Instr.wf (.drw 0 0 16) = false := by decide

theorem test_wf_accepts_row_count_15 : Instr.wf (.drw 0 0 15) = true := by decide

/-! ### Decoding: a word of every row, written from R75 (2.1 of the vectors) -/

theorem test_decode_nop : decode 0x0000#16 = .instr .nop := by decide
theorem test_decode_cls : decode 0x00E0#16 = .instr .cls := by decide
theorem test_decode_ret : decode 0x00EE#16 = .instr .ret := by decide
theorem test_decode_jp : decode 0x1ABC#16 = .instr (.jp 0xABC#12) := by decide
theorem test_decode_call : decode 0x2FFF#16 = .instr (.call 0xFFF#12) := by decide
theorem test_decode_seImm : decode 0x3A05#16 = .instr (.seImm 0xA 0x05#8) := by decide
theorem test_decode_sneImm : decode 0x4B9C#16 = .instr (.sneImm 0xB 0x9C#8) := by decide
theorem test_decode_seReg : decode 0x5AB0#16 = .instr (.seReg 0xA 0xB) := by decide
theorem test_decode_ldImm : decode 0x6A05#16 = .instr (.ldImm 0xA 0x05#8) := by decide
theorem test_decode_addImm : decode 0x70FF#16 = .instr (.addImm 0 0xFF#8) := by decide
theorem test_decode_ldReg : decode 0x8AB0#16 = .instr (.ldReg 0xA 0xB) := by decide
theorem test_decode_orReg : decode 0x8AB1#16 = .instr (.orReg 0xA 0xB) := by decide
theorem test_decode_andReg : decode 0x8AB2#16 = .instr (.andReg 0xA 0xB) := by decide
theorem test_decode_xorReg : decode 0x8AB3#16 = .instr (.xorReg 0xA 0xB) := by decide
theorem test_decode_addReg : decode 0x8AB4#16 = .instr (.addReg 0xA 0xB) := by decide
theorem test_decode_subReg : decode 0x8AB5#16 = .instr (.subReg 0xA 0xB) := by decide
theorem test_decode_shr : decode 0x8AB6#16 = .instr (.shr 0xA 0xB) := by decide
theorem test_decode_subnReg : decode 0x8AB7#16 = .instr (.subnReg 0xA 0xB) := by decide
theorem test_decode_shl : decode 0x8ABE#16 = .instr (.shl 0xA 0xB) := by decide
theorem test_decode_sneReg : decode 0x9AB0#16 = .instr (.sneReg 0xA 0xB) := by decide
theorem test_decode_ldIndex : decode 0xA20C#16 = .instr (.ldIndex 0x20C#12) := by decide
theorem test_decode_jpV0 : decode 0xB300#16 = .instr (.jpV0 0x300#12) := by decide
theorem test_decode_rnd : decode 0xC30F#16 = .instr (.rnd 3 0x0F#8) := by decide
theorem test_decode_drw : decode 0xD015#16 = .instr (.drw 0 1 5) := by decide
theorem test_decode_skp : decode 0xE49E#16 = .instr (.skp 4) := by decide
theorem test_decode_sknp : decode 0xE4A1#16 = .instr (.sknp 4) := by decide
theorem test_decode_ldFromDelay : decode 0xF507#16 = .instr (.ldFromDelay 5) := by decide
theorem test_decode_ldKey : decode 0xF30A#16 = .instr (.ldKey 3) := by decide
theorem test_decode_ldDelay : decode 0xF515#16 = .instr (.ldDelay 5) := by decide
theorem test_decode_ldSound : decode 0xF518#16 = .instr (.ldSound 5) := by decide
theorem test_decode_addIndex : decode 0xF11E#16 = .instr (.addIndex 1) := by decide
theorem test_decode_ldFont : decode 0xFA29#16 = .instr (.ldFont 0xA) := by decide

/-- The illegal words of table 2.1. -/
theorem test_decode_illegal :
    decode 0x00E1#16 = .illegal .group0 ∧ decode 0x0123#16 = .illegal .group0 ∧
    decode 0x5AB1#16 = .illegal .group5 ∧ decode 0x8AB8#16 = .illegal .group8 ∧
    decode 0x8ABF#16 = .illegal .group8 ∧ decode 0x9AB5#16 = .illegal .group9 ∧
    decode 0xE49F#16 = .illegal .groupE ∧ decode 0xF033#16 = .illegal .groupF ∧
    decode 0xF055#16 = .illegal .groupF ∧ decode 0xF065#16 = .illegal .groupF ∧
    decode 0xF01F#16 = .illegal .groupF ∧ decode 0xF090#16 = .illegal .groupF := by decide

theorem test_decode_needs_two_bytes :
    decodeBytes [] = .illegal .truncated ∧ decodeBytes [0x6A#8] = .illegal .truncated := by decide

/-- S9: the byte at the lower address is the high one. -/
theorem test_decodeTableWord : decodeTableWord 16 0x6A05 = some (.ldImm 0xA 0x05#8) := by decide

/-! ### One tick on a small state -/

/-- The state after a tick that runs the word `w` at pc. -/
def ran (w : Nat) (s : State) : Option State :=
  match step (s.withFetchWord 16 w) with
  | .next t => some t
  | .fault _ => none
  | .refused _ => none

/-- Reset with two registers written. -/
def withRegs (x : Reg) (a : Byte) (y : Reg) (b : Byte) : State := (State.reset.setV x a).setV y b

/-- Reset with one entry on the return stack. -/
def oneDeep : State := (State.reset.setStack (State.reset.stack.set 0 0x0206#16)).setSp 1

/-- Reset with all 16 stack entries in use. -/
def fullStack : State := State.reset.setSp 16

/-- Reset with one key pressed and V4 = 07. -/
def keyDown (k : Reg) : State := (State.reset.setKeys (State.reset.keys.set k.val true)).setV 4 0x07

/-- The first two coordinates, I = 0300 and the sprite bytes there. -/
def sprite (a b : Byte) (bytes : List Byte) : State :=
  ((withRegs 0 a 1 b).setIndex 0x0300#16).memWriteAll 0x300 bytes

/-- The numbers of the pixels that are on, among those in `ks`. -/
def lit (s : State) (ks : List (Fin 2048)) : List (Fin 2048) := ks.filter s.fb.entry

/-- F13 -/
theorem test_nop : ran 0x0000 State.reset = some (State.reset.setPc 0x0202#16) := by decide

/-- D12: pixel 5 is on before. -/
theorem test_cls :
    (ran 0x00E0 ((State.reset.setFb (Framebuffer.allOff.toggle 5 0)).setV 0xF 0x01)).map
      (fun t => (t.fb, t.getV 0xF)) = some (Framebuffer.allOff, 0x01#8) := by decide

/-- F7 -/
theorem test_ret : (ran 0x00EE oneDeep).map (fun t => (t.pc, t.sp, t.stack[0])) =
    some (0x0206#16, 0, 0x0206#16) := by decide

/-- F9 -/
theorem test_ret_underflow : (ran 0x00EE State.reset).map
    (fun t => (t.pc, t.sp, t.halted, t.faultCause, t.faultAddr, t.faultOp)) =
    some (0x0202#16, 0, true, .stackUnderflow, 0x0200#16, 0x00EE#16) := by decide

/-- F3 -/
theorem test_jp_odd : (ran 0x1201 State.reset).map (·.pc) = some 0x0201#16 := by decide

/-- F4 -/
theorem test_call : (ran 0x220A (State.reset.setPc 0x0204#16)).map (fun t => (t.pc, t.sp, t.stack[0])) =
    some (0x020A#16, 1, 0x0206#16) := by decide

/-- F6 -/
theorem test_call_overflow : (ran 0x2300 (fullStack.setPc 0x0400#16)).map
    (fun t => (t.pc, t.sp, t.faultCause, t.faultAddr, t.faultOp)) =
    some (0x0402#16, 16, .stackOverflow, 0x0400#16, 0x2300#16) := by decide

/-- K1, K2 -/
theorem test_seImm : (ran 0x3A05 (State.reset.setV 0xA 0x05)).map (·.pc) = some 0x0204#16 ∧
    (ran 0x3A05 (State.reset.setV 0xA 0x06)).map (·.pc) = some 0x0202#16 := by decide

/-- K3, K4 -/
theorem test_sneImm : (ran 0x4A05 (State.reset.setV 0xA 0x05)).map (·.pc) = some 0x0202#16 ∧
    (ran 0x4A05 (State.reset.setV 0xA 0x06)).map (·.pc) = some 0x0204#16 := by decide

/-- K5, K6 -/
theorem test_seReg : (ran 0x5120 (withRegs 1 0x7F 2 0x7F)).map (·.pc) = some 0x0204#16 ∧
    (ran 0x5120 (withRegs 1 0x7F 2 0x80)).map (·.pc) = some 0x0202#16 := by decide

/-- K8, K9 -/
theorem test_sneReg : (ran 0x9120 (withRegs 1 0x7F 2 0x7F)).map (·.pc) = some 0x0202#16 ∧
    (ran 0x9120 (withRegs 1 0x7F 2 0x80)).map (·.pc) = some 0x0204#16 := by decide

/-- L2 -/
theorem test_ldImm : (ran 0x6FAB State.reset).map (·.getV 0xF) = some 0xAB#8 := by decide

/-- L3: the add wraps and VF stays 00. -/
theorem test_addImm : (ran 0x7001 (State.reset.setV 0 0xFF)).map (fun t => (t.getV 0, t.getV 0xF)) =
    some (0x00#8, 0x00#8) := by decide

/-- L7 -/
theorem test_ldReg : (ran 0x8010 (State.reset.setV 1 0x2A)).map (fun t => (t.getV 0, t.getV 1)) =
    some (0x2A#8, 0x2A#8) := by decide

/-- L8 -/
theorem test_orReg : (ran 0x8011 ((withRegs 0 0xF0 1 0x0F).setV 0xF 0x55)).map
    (fun t => (t.getV 0, t.getV 0xF)) = some (0xFF#8, 0x55#8) := by decide

/-- L9 -/
theorem test_andReg : (ran 0x8012 ((withRegs 0 0xF0 1 0x3C).setV 0xF 0x55)).map
    (fun t => (t.getV 0, t.getV 0xF)) = some (0x30#8, 0x55#8) := by decide

/-- L10 -/
theorem test_xorReg : (ran 0x8013 ((withRegs 0 0xF0 1 0x3C).setV 0xF 0x55)).map
    (fun t => (t.getV 0, t.getV 0xF)) = some (0xCC#8, 0x55#8) := by decide

/-- A1, A2 -/
theorem test_addReg :
    (ran 0x8014 (withRegs 0 0xFF 1 0x01)).map (fun t => (t.getV 0, t.getV 0xF)) =
      some (0x00#8, 0x01#8) ∧
    (ran 0x8014 (withRegs 0 0x80 1 0x7F)).map (fun t => (t.getV 0, t.getV 0xF)) =
      some (0xFF#8, 0x00#8) := by decide

/-- A7, A9: X = F loses the sum, Y = F adds the old VF. -/
theorem test_addReg_flag_register :
    (ran 0x8F14 (withRegs 0xF 0x10 1 0x20)).map (·.getV 0xF) = some 0x00#8 ∧
    (ran 0x80F4 (withRegs 0 0x01 0xF 0xFF)).map (fun t => (t.getV 0, t.getV 0xF)) =
      some (0x00#8, 0x01#8) := by decide

/-- B2, B3 -/
theorem test_subReg :
    (ran 0x8015 (withRegs 0 0x03 1 0x05)).map (fun t => (t.getV 0, t.getV 0xF)) =
      some (0xFE#8, 0x00#8) ∧
    (ran 0x8015 (withRegs 0 0x07 1 0x07)).map (fun t => (t.getV 0, t.getV 0xF)) =
      some (0x00#8, 0x01#8) := by decide

/-- B6, B8 -/
theorem test_subReg_flag_register :
    (ran 0x8F15 (withRegs 0xF 0x05 1 0x03)).map (·.getV 0xF) = some 0x01#8 ∧
    (ran 0x80F5 (withRegs 0 0x05 0xF 0x09)).map (fun t => (t.getV 0, t.getV 0xF)) =
      some (0xFC#8, 0x00#8) := by decide

/-- N1, N2 -/
theorem test_subnReg :
    (ran 0x8017 (withRegs 0 0x03 1 0x05)).map (fun t => (t.getV 0, t.getV 0xF)) =
      some (0x02#8, 0x01#8) ∧
    (ran 0x8017 (withRegs 0 0x05 1 0x03)).map (fun t => (t.getV 0, t.getV 0xF)) =
      some (0xFE#8, 0x00#8) := by decide

/-- H6 (Y is ignored), H4 -/
theorem test_shr :
    (ran 0x8276 (withRegs 2 0x04 7 0xFF)).map (fun t => (t.getV 2, t.getV 0xF, t.getV 7)) =
      some (0x02#8, 0x00#8, 0xFF#8) ∧
    (ran 0x8206 (State.reset.setV 2 0xFF)).map (fun t => (t.getV 2, t.getV 0xF)) =
      some (0x7F#8, 0x01#8) := by decide

/-- H13 (Y is ignored), H9 -/
theorem test_shl :
    (ran 0x827E (withRegs 2 0x40 7 0xFF)).map (fun t => (t.getV 2, t.getV 0xF, t.getV 7)) =
      some (0x80#8, 0x00#8, 0xFF#8) ∧
    (ran 0x820E (State.reset.setV 2 0x81)).map (fun t => (t.getV 2, t.getV 0xF)) =
      some (0x02#8, 0x01#8) := by decide

/-- I2 -/
theorem test_ldIndex : (ran 0xAFFF State.reset).map (·.index) = some 0x0FFF#16 := by decide

/-- F11, F12: not reduced to 12 bits; the register is V0. -/
theorem test_jpV0 : (ran 0xBFFF (State.reset.setV 0 0xFF)).map (·.pc) = some 0x10FE#16 ∧
    (ran 0xB300 (State.reset.setV 3 0x77)).map (·.pc) = some 0x0300#16 := by decide

/-- I12, I14, on a given draw. -/
theorem test_rnd_masks : (rndWith 0xA7 3 0x0F State.reset).getV 3 = 0x07#8 ∧
    (rndWith 0xA7 3 0xFF State.reset).getV 3 = 0xA7#8 := by decide

/-- D10: vertical wrap. -/
theorem test_drw_wraps : (ran 0xD012 (sprite 0x00 0x1F [0x80, 0x80])).map
    (fun t => (lit t [0, 1, 64, 1984, 1985], t.getV 0xF)) = some ([0, 1984], 0x00#8) := by decide

/-- D5: a collision. -/
theorem test_drw_collides :
    (ran 0xD011 ((sprite 0x00 0x00 [0xC0]).setFb (Framebuffer.allOff.toggle 0 0))).map
      (fun t => (lit t [0, 1, 2], t.getV 0xF)) = some ([1], 0x01#8) := by decide

/-- T1, T5 -/
theorem test_skp :
    (ran 0xE49E ((keyDown 7).setPc 0x0300#16)).map (·.pc) = some 0x0304#16 ∧
    (ran 0xE49E ((State.reset.setV 4 0x10).setPc 0x0300#16)).map
      (fun t => (t.pc, t.faultCause, t.faultAddr, t.faultOp)) =
      some (0x0302#16, .indexOutOfRange, 0x0300#16, 0xE49E#16) := by decide

/-- T3, T6 -/
theorem test_sknp :
    (ran 0xE4A1 ((keyDown 2).setPc 0x0300#16)).map (·.pc) = some 0x0304#16 ∧
    (ran 0xE4A1 ((State.reset.setV 4 0xFF).setPc 0x0300#16)).map (fun t => (t.pc, t.faultCause)) =
      some (0x0302#16, .indexOutOfRange) := by decide

/-- T11 -/
theorem test_ldFromDelay : (ran 0xF507 (State.reset.setDt 0x3B)).map (fun t => (t.getV 5, t.dt)) =
    some (0x3B#8, 0x3B#8) := by decide

/-- T7: the whole state is as it was. -/
theorem test_ldKey_waits : ran 0xF30A State.reset = some (State.reset.withFetchWord 16 0xF30A) := by
  decide

/-- T8 -/
theorem test_ldKey_takes_lowest :
    (ran 0xF30A (State.reset.setKeys ((State.reset.keys.set 2 true).set 7 true))).map
      (fun t => (t.getV 3, t.pc)) = some (0x02#8, 0x0202#16) := by decide

/-- T12 -/
theorem test_ldDelay : (ran 0xF515 (State.reset.setV 5 0x3C)).map (fun t => (t.dt, t.st)) =
    some (0x3C#8, 0x00#8) := by decide

/-- T13 -/
theorem test_ldSound : (ran 0xF518 (State.reset.setV 5 0x01)).map (fun t => (t.dt, t.st)) =
    some (0x00#8, 0x01#8) := by decide

/-- I4, I6 -/
theorem test_addIndex :
    (ran 0xF11E ((State.reset.setV 1 0x01).setIndex 0x0FFF#16)).map (fun t => (t.index, t.getV 0xF)) =
      some (0x1000#16, 0x00#8) ∧
    (ran 0xF11E ((State.reset.setV 1 0xFF).setIndex 0xFFFF#16)).map (·.index) = some 0x00FE#16 := by
  decide

/-- I7, I11 -/
theorem test_ldFont : (ran 0xFA29 (State.reset.setV 0xA 0x05)).map (·.index) = some 0x0019#16 ∧
    (ran 0xFA29 (State.reset.setV 0xA 0xFF)).map (·.index) = some 0x04FB#16 := by decide

/-- The InvalidOpcode vector of 2.1. -/
theorem test_invalid_opcode : (ran 0xF065 State.reset).map
    (fun t => (t.pc, t.halted, t.faultCause.code, t.faultAddr, t.faultOp)) =
    some (0x0202#16, true, 4, 0x0200#16, 0xF065#16) := by decide

/-- S8 and T15 -/
theorem test_tickTimers : (tickTimers (State.reset.setSt 0x01)).2 = .tone true ∧
    (tickTimers (State.reset.setSt 0x01)).1.st = 0x00#8 ∧
    tickTimers State.reset = (State.reset, .tone false) := by decide

/-- X9: a reset after a load erases the ROM. -/
theorem test_reset_erases_rom :
    (applyOp .reset (applyOp (.loadRom [0x12, 0x00]) State.reset).1).1 = State.reset := by decide

/-! ### Witnesses: for each obligation with hypotheses, a state and operands that meet all of them -/

/-- Reset with the word `w` at pc. -/
def atReset (w : Nat) : State := State.reset.withFetchWord 16 w

/-- Reset with pc at `a` and the word `w` there. -/
def atPc (a : Word) (w : Nat) : State := (State.reset.setPc a).withFetchWord 16 w

/-- The state after a tick, or the state itself where there is none. -/
def afterTick (s : State) : State :=
  match step s with
  | .next t => t
  | .fault _ => s
  | .refused _ => s

/-- An engine that an illegal opcode has halted. -/
def halt : State := afterTick (atReset 0xF065)

theorem witness_ResetLeavesTheStatedValues :
    (applyOp .reset halt).1.memRead 79 = some halt.font[79] ∧
    (applyOp .reset halt).1.memRead 80 = some 0x00#8 ∧
    (applyOp .reset halt).1.memRead 0xFFF = some 0x00#8 := by decide

/-- With pc at 0xFFE, the last address a fetch reads from. -/
theorem witness_TickRunsTheDecodedInstruction :
    Running (atPc 0xFFE 0x6A05) ∧ (atPc 0xFFE 0x6A05).memRead (atPc 0xFFE 0x6A05).pc.toNat = some 0x6A#8 ∧
    (atPc 0xFFE 0x6A05).memRead ((atPc 0xFFE 0x6A05).pc.toNat + 1) = some 0x05#8 ∧
    decodeBytes [0x6A#8, 0x05#8] = .instr (.ldImm 0xA 0x05#8) := by
  unfold Running; decide

/-- pc = 0xFFF, and the last row at 0x1000 for one row and for 15. -/
theorem witness_AccessOutsideMemoryFaults :
    (Running (State.reset.setPc 0x0FFF#16) ∧ (State.reset.setPc 0x0FFF#16).pc.toNat ≥ 0x0FFF) ∧
    ((1 : Nat) < 16 ∧ 1 > 0 ∧ (State.reset.setIndex 0x1000#16).index.toNat + 1 - 1 > 0xFFF) ∧
    ((15 : Nat) < 16 ∧ 15 > 0 ∧ (State.reset.setIndex 0x0FF2#16).index.toNat + 15 - 1 > 0xFFF) := by
  unfold Running; decide

/-- One opcode of each group of R76. -/
theorem witness_ListedIllegal :
    ListedIllegal 0x00E1#16 ∧ ListedIllegal 0x5AB1#16 ∧ ListedIllegal 0x8AB8#16 ∧
    ListedIllegal 0x9AB5#16 ∧ ListedIllegal 0xE49F#16 ∧ ListedIllegal 0xF065#16 := by
  unfold ListedIllegal
  refine ⟨?_, ?_, ?_, ?_, ?_, ?_⟩ <;> decide

theorem witness_IllegalOpcodesFault :
    Running (atReset 0xF065) ∧ (atReset 0xF065).fetch = some 0xF065#16 ∧ ListedIllegal 0xF065#16 := by
  unfold Running ListedIllegal; decide

theorem witness_HaltedTickChangesNothing : halt.halted = true ∧ HostOp.tick ≠ HostOp.reset := by decide

theorem witness_FaultLatchIsSticky :
    halt.halted = true ∧ HostOp.reset ∉ [HostOp.tickTimers, .tick] ∧
    [HostOp.tickTimers, .tick][1]? = some HostOp.tick := by decide

/-- A fault of the fetch stage, and one after it. -/
theorem witness_FaultsArePrecise :
    (Running (State.reset.setPc 0x0FFF#16) ∧
      step (State.reset.setPc 0x0FFF#16) = .next (afterTick (State.reset.setPc 0x0FFF#16)) ∧
      (afterTick (State.reset.setPc 0x0FFF#16)).halted = true ∧
      (State.reset.setPc 0x0FFF#16).pc.toNat ≥ 0x0FFF) ∧
    (Running (atReset 0x00EE) ∧ step (atReset 0x00EE) = .next (afterTick (atReset 0x00EE)) ∧
      (afterTick (atReset 0x00EE)).halted = true ∧ (atReset 0x00EE).fetch = some 0x00EE#16) :=
  ⟨⟨rfl, rfl, rfl, by decide⟩, rfl, rfl, rfl, rfl⟩

/-- A running state for every cause a tick can raise, and one for none. -/
theorem witness_TickRaisesTheFirstFaultOnly :
    Running (atReset 0x6A05) ∧ firstFault (atReset 0x6A05) = .noFault ∧
    firstFault (State.reset.setPc 0x0FFF#16) = .memoryOutOfRange ∧
    firstFault (atReset 0xF065) = .invalidOpcode ∧ firstFault (atReset 0x00EE) = .stackUnderflow ∧
    firstFault ((atReset 0x2300).setSp 16) = .stackOverflow ∧
    firstFault ((atReset 0xE49E).setV 4 0x10) = .indexOutOfRange ∧
    firstFault ((atReset 0xD001).setIndex 0x1000#16) = .memoryOutOfRange := by
  unfold Running; decide

theorem witness_HostErrorsChangeNothing :
    (List.replicate 3585 (0x00#8 : Byte)).length > 3584 ∧ (16 : Nat) > 15 := by
  rw [List.length_replicate]; decide

/-- A fetch fault, a later fault, and an instruction that runs. -/
theorem witness_PcAfterEveryTick :
    (Running (State.reset.setPc 0x0FFF#16) ∧
      step (State.reset.setPc 0x0FFF#16) = .next (afterTick (State.reset.setPc 0x0FFF#16)) ∧
      (State.reset.setPc 0x0FFF#16).fetch = none) ∧
    (Running (atReset 0x00EE) ∧ step (atReset 0x00EE) = .next (afterTick (atReset 0x00EE)) ∧
      (atReset 0x00EE).fetch = some 0x00EE#16 ∧ (afterTick (atReset 0x00EE)).halted = true) ∧
    (Running (atReset 0x1201) ∧ step (atReset 0x1201) = .next (afterTick (atReset 0x1201)) ∧
      instrAt (atReset 0x1201) = some (.jp 0x201#12) ∧ (afterTick (atReset 0x1201)).halted = false) :=
  ⟨⟨rfl, rfl, rfl⟩, ⟨rfl, rfl, rfl, rfl⟩, rfl, rfl, rfl, rfl⟩

theorem witness_DecodeOfEncode : Instr.wf (.drw 15 15 15) = true := by decide

theorem witness_EncodeOfDecode : decode 0xDFFF#16 = .instr (.drw 15 15 15) := by decide

theorem witness_DecodeSelectsTheMatchingRow :
    SelectsRow 0x6A05#16 (.ldImm 0xA 0x05#8) ∧ SelectsRow 0x6A05#16 (.ldImm 0 0x00#8) ∧
    decode 0x6A05#16 = .instr (.ldImm 0xA 0x05#8) := by
  unfold SelectsRow; decide

/-- One entry in use, all of them, and none. -/
theorem witness_RetPopsTheReturnAddress :
    (0 : Fin 16).val + 1 = oneDeep.sp.val ∧ (15 : Fin 16).val + 1 = fullStack.sp.val ∧
    State.reset.sp.val = 0 := by decide

/-- An empty stack, one with one free entry, and a full one. -/
theorem witness_CallPushesAndJumps :
    (0 : Fin 16).val = State.reset.sp.val ∧ (15 : Fin 16).val = (State.reset.setSp 15).sp.val ∧
    fullStack.sp.val = 16 := by decide

/-- CALL 300 at 0200, LD VA, 05 at 0300, RET at 0302. -/
def callAndReturn : State := (atReset 0x2300).memWriteAll 0x300 [0x6A, 0x05, 0x00, 0xEE]

/-- The states after its CALL, after its LD and after its RET. -/
def called : State := afterTick callAndReturn
/-- See `called`. -/
def loaded : State := afterTick called
/-- See `called`. -/
def returned : State := afterTick loaded

theorem witness_StackIsLifo :
    Running callAndReturn ∧ instrAt callAndReturn = some (.call 0x300#12) ∧
    step callAndReturn = .next called ∧ Running called ∧ BalancedRun called loaded ∧
    instrAt loaded = some .ret ∧ step loaded = .next returned :=
  ⟨rfl, rfl, rfl, rfl,
    .plain (i := .ldImm 0xA 0x05#8) rfl rfl (by decide) nofun rfl rfl (.stop _),
    rfl, rfl⟩

/-- The entry of `oneDeep` is stale once `sp` is 0. -/
theorem witness_StaleStackEntriesAreUnobservable :
    SameButStale State.reset (oneDeep.setSp 0) ∧ State.reset ≠ oneDeep.setSp 0 :=
  ⟨⟨rfl, fun k h => absurd h (Nat.not_lt_zero k.val)⟩, by decide⟩

/-- Each side of each condition. -/
theorem witness_CompareSkips :
    State.reset.getV 0 = 0x00#8 ∧ State.reset.getV 0 ≠ 0x01#8 ∧
    (withRegs 0 0x7F 1 0x7F).getV 0 = (withRegs 0 0x7F 1 0x7F).getV 1 ∧
    (withRegs 0 0x7F 1 0x80).getV 0 ≠ (withRegs 0 0x7F 1 0x80).getV 1 := by decide

/-- SE V0, 00 at 0xFFC, where the skipped word is the last of memory. -/
theorem witness_SkippedWordIsNotDecoded :
    Running (atPc 0xFFC 0x3000) ∧ instrAt (atPc 0xFFC 0x3000) = some (.seImm 0 0x00#8) ∧
    TakenSkip (.seImm 0 0x00#8) (atPc 0xFFC 0x3000) ∧
    Memory.wf (atPc 0xFFC 0x3000).font (atPc 0xFFC 0x3000).mem = true ∧
    (atPc 0xFFC 0x3000).pc.toNat + 3 ≤ 0xFFF := by
  unfold Running TakenSkip; decide

theorem witness_TakenSkip :
    TakenSkip (.sneImm 0 0x01#8) State.reset ∧ TakenSkip (.seReg 0 1) State.reset ∧
    TakenSkip (.sneReg 0 1) (withRegs 0 0x7F 1 0x80) ∧ TakenSkip (.skp 4) (keyDown 7) ∧
    TakenSkip (.sknp 4) State.reset := by
  unfold TakenSkip; decide

theorem witness_OnlyTheListedRegistersAreWritten :
    exec (.addReg 0 1) State.reset = .next (State.reset.writeWithFlag 0 0x00 false) ∧
    (2 : Reg) ∉ writtenRegs (.addReg 0 1) := ⟨rfl, by decide⟩

/-- X other than F, for the first clause of the flag-writing instructions. -/
theorem witness_flag_writers : (0 : Reg) ≠ regF ∧ (14 : Reg) ≠ regF := by decide

theorem witness_NothingElseWritesI :
    exec (.ldImm 0 0x05#8) State.reset = .next (State.reset.setV 0 0x05#8) ∧
    (∀ nnn, Instr.ldImm 0 0x05#8 ≠ .ldIndex nnn) ∧ (∀ x, Instr.ldImm 0 0x05#8 ≠ .addIndex x) ∧
    (∀ x, Instr.ldImm 0 0x05#8 ≠ .ldFont x) :=
  ⟨rfl, nofun, nofun, nofun⟩

/-- The last row at 0xFFF for 15 rows, and no row at all with I beyond memory. -/
theorem witness_DrwXorsTheSprite :
    ((15 : Nat) < 16 ∧ (15 = 0 ∨ (State.reset.setIndex 0x0FF1#16).index.toNat + 15 - 1 ≤ 0xFFF)) ∧
    ((0 : Nat) < 16 ∧ (0 = 0 ∨ (State.reset.setIndex 0xFFFF#16).index.toNat + 0 - 1 ≤ 0xFFF)) := by
  decide

/-- A sprite drawn with V0 and V1. -/
def drawn : State :=
  (sprite 0x00 0x00 [0xC0]).afterDraw
    (drawRows 0x00 0x00 0 [0xC0] ((sprite 0x00 0x00 [0xC0]).fb, false))

theorem witness_DrawingTwiceRestoresTheScreen :
    (1 : Nat) < 16 ∧ (1 = 0 ∨ (sprite 0x00 0x00 [0xC0]).index.toNat + 1 - 1 ≤ 0xFFF) ∧
    exec (.drw 0 1 1) (sprite 0x00 0x00 [0xC0]) = .next drawn ∧ drawn.fb = drawn.fb ∧
    drawn.getV 0 = (sprite 0x00 0x00 [0xC0]).getV 0 ∧ drawn.getV 1 = (sprite 0x00 0x00 [0xC0]).getV 1 ∧
    drawn.index = (sprite 0x00 0x00 [0xC0]).index ∧
    (∀ a, drawn.memRead a = (sprite 0x00 0x00 [0xC0]).memRead a) :=
  ⟨by decide, by decide, rfl, rfl, rfl, rfl, rfl, fun _ => rfl⟩

/-- Both outcomes of the flag of the second draw occur: a first draw that turns a pixel on, and one
(over `fb[0]`, sprite 0x80) that only turns one off (log entry 15). -/
theorem witness_second_draw_flag :
    drawn.fb.pixel 0 0 = true ∧ (sprite 0x00 0x00 [0xC0]).fb.pixel 0 0 = false ∧
    (drawRows 0x00 0x00 0 [0x80] (Framebuffer.allOff.toggle 0 0, false)).1 = Framebuffer.allOff := by
  decide

theorem witness_OnlyClsDrwAndResetWriteTheFramebuffer :
    exec .nop State.reset = .next State.reset ∧ Instr.nop ≠ .cls ∧ (∀ x y n, Instr.nop ≠ .drw x y n) ∧
    HostOp.tickTimers ≠ .tick ∧ HostOp.tickTimers ≠ .reset :=
  ⟨rfl, by decide, nofun, by decide, by decide⟩

/-- The keys 0 and F, pressed and released, and the value 16. -/
theorem witness_KeySkipsTestTheKeyLevel :
    (State.reset.getV 4).toNat = (0 : Reg).val ∧ State.reset.keys[(0 : Reg).val] = false ∧
    ((keyDown 15).setV 4 0x0F).keys[(15 : Reg).val] = true ∧
    (((keyDown 15).setV 4 0x0F).getV 4).toNat = (15 : Reg).val ∧
    ((State.reset.setV 4 0x10).getV 4).toNat > 15 := by decide

/-- Keys 0 and F as the lowest pressed, and none pressed. -/
theorem witness_KeyWaitRewindsOrTakesTheLowestKey :
    ((keyDown 0).keys[(0 : Reg).val] = true ∧ ∀ j : Reg, j < 0 → (keyDown 0).keys[j.val] = false) ∧
    ((keyDown 15).keys[(15 : Reg).val] = true ∧
      ∀ j : Reg, j < 15 → (keyDown 15).keys[j.val] = false) ∧
    (Running (atReset 0xF30A) ∧ instrAt (atReset 0xF30A) = some (.ldKey 3) ∧
      ∀ j : Reg, (atReset 0xF30A).keys[j.val] = false) := by
  unfold Running; decide

theorem witness_TimerTickDecrements :
    ((State.reset.setDt 0x01).dt.toNat > 0 ∧ State.reset.dt.toNat = 0) ∧
    ((State.reset.setSt 0xFF).st.toNat > 0 ∧ State.reset.st.toNat = 0) := by decide

/-- The shortest countdown and the longest. -/
theorem witness_ToneFiresOncePerCountdown :
    (State.reset.setSt 0x01).st.toNat = 0 + 1 ∧ (State.reset.setSt 0xFF).st.toNat = 254 + 1 := by decide

/-- Images of 0, 3584 and 3585 bytes. -/
theorem witness_LoadRomCopiesOrRejects :
    Memory.wf State.reset.font State.reset.mem = true ∧ ([] : List Byte).length ≤ 3584 ∧
    (List.replicate 3584 (0x12#8 : Byte)).length ≤ 3584 ∧
    (List.replicate 3585 (0x12#8 : Byte)).length > 3584 := by
  rw [List.length_replicate, List.length_replicate]; decide

theorem witness_KeyPressWritesOneKey : (14 : Reg) ≠ 15 ∧ (16 : Nat) > 15 := by decide

theorem witness_HostOperationsNeverMovePc :
    HostOp.keyPress 15 true ≠ .tick ∧ HostOp.keyPress 15 true ≠ .reset := by decide

theorem witness_InstructionsNeverWriteMemory :
    step (atReset 0x6A05) = .next (afterTick (atReset 0x6A05)) ∧
    HostOp.tickTimers ≠ .reset ∧ (∀ bytes, HostOp.tickTimers ≠ .loadRom bytes) ∧
    Memory.wf State.reset.font State.reset.mem = true ∧
    HostOp.reset ∉ [HostOp.loadRom [0x12], .tick] ∧ (0x1FF : Nat) < 0x200 ∧ (0xFFF : Nat) ≤ 0xFFF ∧
    (∀ bytes, HostOp.loadRom bytes ∉ [HostOp.tick, .tickTimers]) :=
  ⟨rfl, by decide, nofun, rfl, by decide, by decide, by decide, by simp⟩

theorem witness_BootRunsTheFirstInstruction :
    Instr.wf (.drw 15 15 15) = true ∧ (List.replicate 3582 (0x12#8 : Byte)).length ≤ 3582 :=
  ⟨rfl, by rw [List.length_replicate]⟩

/-- At the last address a fetch reads from. -/
theorem witness_PlacedWordIsTheNextInstruction :
    Running (State.reset.setPc 0x0FFE#16) ∧
    Memory.wf (State.reset.setPc 0x0FFE#16).font (State.reset.setPc 0x0FFE#16).mem = true ∧
    Instr.wf (.drw 15 15 15) = true ∧ (State.reset.setPc 0x0FFE#16).pc.toNat ≤ 0xFFE := by
  unfold Running; decide

/-- The invariant with an instruction placed, and the tick that runs it. -/
theorem witness_InvariantIsKeptByEveryStep :
    Inv (atReset 0x2300) ∧ step (atReset 0x2300) = .next (afterTick (atReset 0x2300)) :=
  ⟨⟨by decide, fun _ => ⟨rfl, rfl, rfl⟩, fun h => absurd h (by decide), by decide,
    fun k h => absurd h (Nat.not_lt_zero k.val)⟩, rfl⟩

/-- The invariant at its bounds: pc = 10FE after BFFF with V0 = FF, and an entry in use of 1000. -/
def atBounds : State :=
  ((State.reset.setPc 0x10FE#16).setStack (State.reset.stack.set 0 0x1000#16)).setSp 1

theorem witness_InvariantIsKeptByEveryOperation : Inv atBounds :=
  ⟨by decide, fun _ => ⟨rfl, rfl, rfl⟩, fun h => absurd h (by decide), by decide, by decide⟩

end Sys2Proof.Tests
end

/-!
PROOFS. The statements of spec/10_state.md: what every step and every host operation does to pc, the
registers, the stack and the invariant. `executesOrFaults` says once what the execute stage can do and
`step_next_cases` what a tick can do; `OffStack` says which instructions leave the return stack alone.
-/
namespace Sys2Proof.Machine

/-! ### An equation per case of the meanings that test something -/

theorem execRet_of_pos {s : State} (h : 0 < s.sp.val) :
    execRet s =
      .next ((s.setSp ⟨s.sp.val - 1, by omega⟩).setPc (s.stack[s.sp.val - 1]'(by omega))) := by
  obtain ⟨_, hp⟩ | ⟨h0, -⟩ := s.pop_cases
  · simp only [execRet, hp]
  · omega

theorem execRet_of_empty {s : State} (h : s.sp.val = 0) :
    execRet s = raiseInExecute .stackUnderflow .ret s := by
  obtain ⟨_, -⟩ | ⟨-, hp⟩ := s.pop_cases
  · omega
  · simp only [execRet, hp]

theorem execCall_of_lt {s : State} (nnn : Addr12) (h : s.sp.val < 16) :
    execCall nnn s = .next (((s.setStack (s.stack.set s.sp.val s.pc)).setSp
      ⟨s.sp.val + 1, by omega⟩).setPc (addrOperand nnn)) := by
  obtain ⟨_, hp⟩ | ⟨h16, -⟩ := s.push_cases s.pc
  · simp only [execCall, hp]
  · omega

theorem execCall_of_full {s : State} (nnn : Addr12) (h : s.sp.val = 16) :
    execCall nnn s = raiseInExecute .stackOverflow (.call nnn) s := by
  obtain ⟨_, -⟩ | ⟨-, hp⟩ := s.push_cases s.pc
  · omega
  · simp only [execCall, hp]

theorem execSkp_of_lt {s : State} {x : Reg} (h : (s.getV x).toNat < 16) :
    execSkp x s = .next (s.skipIf s.keys[(s.getV x).toNat]) := by
  simp only [execSkp, keyOperand, h, dite_true]

theorem execSkp_of_not_lt {s : State} {x : Reg} (h : ¬ (s.getV x).toNat < 16) :
    execSkp x s = raiseInExecute .indexOutOfRange (.skp x) s := by
  simp only [execSkp, keyOperand, h, dite_false]

theorem execSknp_of_lt {s : State} {x : Reg} (h : (s.getV x).toNat < 16) :
    execSknp x s = .next (s.skipIf !s.keys[(s.getV x).toNat]) := by
  simp only [execSknp, keyOperand, h, dite_true]

theorem execSknp_of_not_lt {s : State} {x : Reg} (h : ¬ (s.getV x).toNat < 16) :
    execSknp x s = raiseInExecute .indexOutOfRange (.sknp x) s := by
  simp only [execSknp, keyOperand, h, dite_false]

theorem execLdKey_of_some {s : State} {key : Reg} (x : Reg) (h : lowestPressed s.keys = some key) :
    execLdKey x s = .next (s.setV x (BitVec.ofNat 8 key.val)) := by
  simp only [execLdKey, h]

theorem execLdKey_of_none {s : State} (x : Reg) (h : lowestPressed s.keys = none) :
    execLdKey x s = .next s.rewind := by
  simp only [execLdKey, h]

theorem execDrw_of_some {s : State} {n : Nat} {bytes : List Byte} (x y : Reg)
    (h : s.readBytes s.index.toNat n = some bytes) :
    execDrw x y n s =
      .next (s.afterDraw (drawRows (s.getV x) (s.getV y) 0 bytes (s.fb, false))) := by
  simp only [execDrw, h]

theorem execDrw_of_none {s : State} {n : Nat} (x y : Reg)
    (h : s.readBytes s.index.toNat n = none) :
    execDrw x y n s = raiseInExecute .memoryOutOfRange (.drw x y n) s := by
  simp only [execDrw, h]

/-! ### An equation per case of the step and the tick (R90 to R95) -/

theorem step_of_halted {s : State} (hs : s.halted = true) :
    step s = .fault (.latched s.faultCause) := by
  simp only [step, hs, if_true, haltedTick]

theorem step_of_fetch_none {s : State} (hs : s.halted = false) (hf : s.fetch = none) :
    step s = .next s.raiseInFetch := by
  simp [step, hs, hf]

theorem step_of_illegal {s : State} {op : Word} {g : IllegalGroup} (hs : s.halted = false)
    (hf : s.fetch = some op) (hd : decode op = .illegal g) :
    step s = .next (s.advance.raiseInDecode op) := by
  simp [step, hs, hf, decodeAndExec, hd]

theorem step_of_instr {s : State} {op : Word} {i : Instr} (hs : s.halted = false)
    (hf : s.fetch = some op) (hd : decode op = .instr i) : step s = exec i s.advance := by
  simp [step, hs, hf, decodeAndExec, hd]

theorem tick_of_next {s s' : State} (h : step s = .next s') : tick s = (s', tickResult s') := by
  simp only [tick, h]

theorem tick_of_halted {s : State} (hs : s.halted = true) : tick s = (s, .fault s.faultCause) := by
  simp only [tick, step_of_halted hs]

/-- A step that answers a next state is one of a running engine (R95). -/
theorem running_of_step_next {s t : State} (h : step s = .next t) : Running s := by
  by_contra hhalt
  rw [step_of_halted (Bool.eq_true_of_not_eq_false hhalt)] at h
  cases h

/-- A tick leaves the next state of its step, or the state as it is. -/
theorem tick_state_cases (s : State) : step s = .next (tick s).1 ∨ (tick s).1 = s := by
  unfold tick
  cases step s with
  | next s' => exact .inl rfl
  | fault r => exact .inr rfl
  | refused r => exact .inr rfl

/-! ### What the execute stage of a tick can do -/

/-- An entry in use after a tick from `s` was in use before it, or is the return address `a + 2` that
a CALL has pushed (R100). -/
def StackGrowsByReturnAddress (s t : State) : Prop :=
  ∀ j : Fin 16, j.val < t.sp.val →
    (j.val < s.sp.val ∧ t.stack[j.val] = s.stack[j.val]) ∨ t.stack[j.val] = s.pc + 2

/-- What instruction `i` leaves when the tick that runs it from `s` meets no fault. -/
structure Completed (i : Instr) (s t : State) : Prop where
  memory : t.mem = s.mem
  font : t.font = s.font
  latch : Piece.latch.same s t
  registers : ∀ r, r ∉ writtenRegs i → t.getV r = s.getV r
  pc : PcAfter i s t
  stack : StackGrowsByReturnAddress s t

theorem StackGrowsByReturnAddress.of_eq {s t : State} (hsp : t.sp = s.sp)
    (hstack : t.stack = s.stack) : StackGrowsByReturnAddress s t := by
  intro j hj
  rw [hsp] at hj
  exact .inl ⟨hj, by rw [hstack]⟩

/-- An instruction that writes nothing but pc completes when it puts pc where R25 says. -/
theorem Completed.of_setPc {i : Instr} {s : State} {w : Word} (hpc : PcAfter i s (s.setPc w)) :
    Completed i s (s.setPc w) :=
  ⟨rfl, rfl, ⟨rfl, rfl, rfl, rfl⟩, fun _ _ => rfl, hpc, .of_eq rfl rfl⟩

/-- NNN is zero-extended, so it keeps its value (R73). -/
@[simp] theorem addrOperand_toNat (nnn : Addr12) : (addrOperand nnn).toNat = nnn.toNat :=
  BitVec.toNat_setWidth_of_le (by decide)

/-- V0 + NNN does not wrap (R26, R103). -/
theorem indexedTarget_toNat (s : State) (nnn : Addr12) :
    (indexedTarget s nnn).toNat = (s.getV 0).toNat + nnn.toNat := by
  have hv : (s.getV 0).toNat < 256 := (s.getV 0).isLt
  have hn : nnn.toNat < 4096 := nnn.isLt
  simp only [indexedTarget, zext16, BitVec.toNat_add, BitVec.toNat_setWidth]
  omega

/-- A skip puts pc at `a + 4` or leaves it at `a + 2` (R25, R114). -/
theorem State.skipIf_advance (s : State) (c : Bool) :
    s.advance.skipIf c = s.setPc (if c = true then s.pc + 4 else s.pc + 2) := by
  cases c with
  | false => rfl
  | true =>
    have h : s.pc + 2 + 2 = s.pc + 4 := BitVec.add_assoc s.pc 2 2
    exact congrArg s.setPc h

/-- The rewind undoes the advance (R162). -/
@[simp] theorem State.rewind_advance (s : State) : s.advance.rewind = s :=
  congrArg s.setPc (BitVec.add_sub_cancel s.pc 2)

/-- The execute stage of a tick from `s` takes the one fault of its instruction (R185) or completes. -/
def ExecutesOrFaults (i : Instr) (s : State) : Prop :=
  (executeFault i s ≠ .noFault ∧
      exec i s.advance = raiseInExecute (executeFault i s) i s.advance) ∨
    (executeFault i s = .noFault ∧ ∃ t, exec i s.advance = .next t ∧ Completed i s t)

theorem executesOrFaults_ret (s : State) : ExecutesOrFaults .ret s := by
  by_cases h : s.sp.val = 0
  · have hf : executeFault .ret s = .stackUnderflow := if_pos h
    exact .inl ⟨by simp [hf], hf ▸ execRet_of_empty h⟩
  · have hpos : 0 < s.sp.val := by omega
    have htop : s.sp.val - 1 < 16 := by omega
    refine .inr ⟨if_neg h, _, execRet_of_pos (s := s.advance) hpos, rfl, rfl, ⟨rfl, rfl, rfl, rfl⟩,
      fun _ _ => rfl, ⟨⟨s.sp.val - 1, htop⟩, Nat.sub_add_cancel hpos, rfl⟩,
      fun j hj => .inl ⟨Nat.lt_of_lt_of_le hj (Nat.sub_le _ _), rfl⟩⟩

theorem executesOrFaults_call (nnn : Addr12) (s : State) : ExecutesOrFaults (.call nnn) s := by
  by_cases h : s.sp.val = 16
  · have hf : executeFault (.call nnn) s = .stackOverflow := if_pos h
    exact .inl ⟨by simp [hf], hf ▸ execCall_of_full nnn h⟩
  · have hlt : s.sp.val < 16 := by omega
    refine .inr ⟨if_neg h, _, execCall_of_lt (s := s.advance) nnn hlt, rfl, rfl,
      ⟨rfl, rfl, rfl, rfl⟩, fun _ _ => rfl, addrOperand_toNat nnn, fun j hj => ?_⟩
    by_cases hj' : j.val = s.sp.val
    · right
      simp [hj', State.advance]
    · left
      have hle : j.val < s.sp.val + 1 := hj
      have hne : s.sp.val ≠ j.val := fun e => hj' e.symm
      exact ⟨by omega, by simp [State.advance, Vector.getElem_set_ne _ _ hne]⟩

theorem executesOrFaults_skp (x : Reg) (s : State) : ExecutesOrFaults (.skp x) s := by
  by_cases h : (s.getV x).toNat < 16
  · refine .inr ⟨if_neg (by omega), _, execSkp_of_lt (s := s.advance) h, ?_⟩
    rw [State.skipIf_advance]
    exact .of_setPc ⟨⟨_, h⟩, rfl, rfl⟩
  · have hf : executeFault (.skp x) s = .indexOutOfRange := if_pos (by omega)
    exact .inl ⟨by simp [hf], hf ▸ execSkp_of_not_lt h⟩

theorem executesOrFaults_sknp (x : Reg) (s : State) : ExecutesOrFaults (.sknp x) s := by
  by_cases h : (s.getV x).toNat < 16
  · refine .inr ⟨if_neg (by omega), _, execSknp_of_lt (s := s.advance) h, ?_⟩
    rw [State.skipIf_advance]
    exact .of_setPc ⟨⟨_, h⟩, rfl, by simp [State.advance]⟩
  · have hf : executeFault (.sknp x) s = .indexOutOfRange := if_pos (by omega)
    exact .inl ⟨by simp [hf], hf ▸ execSknp_of_not_lt h⟩

theorem executesOrFaults_drw (x y : Reg) (n : Nat) (s : State) :
    ExecutesOrFaults (.drw x y n) s := by
  obtain ⟨hok, hread⟩ | ⟨hn, hout, hread⟩ := s.readBytes_cases s.index.toNat n
  · refine .inr ⟨if_neg (by omega), _, execDrw_of_some (s := s.advance) x y hread,
      rfl, rfl, ⟨rfl, rfl, rfl, rfl⟩, fun r hr => ?_, rfl, .of_eq rfl rfl⟩
    exact State.getV_setV_ne _ _ (by simpa [writtenRegs] using hr)
  · have hf : executeFault (.drw x y n) s = .memoryOutOfRange := if_pos ⟨hn, hout⟩
    exact .inl ⟨by simp [hf], hf ▸ execDrw_of_none x y hread⟩

theorem executesOrFaults_ldKey (x : Reg) (s : State) : ExecutesOrFaults (.ldKey x) s := by
  refine .inr ⟨rfl, ?_⟩
  cases h : lowestPressed s.keys with
  | some key =>
    refine ⟨_, execLdKey_of_some (s := s.advance) x h, rfl, rfl, ⟨rfl, rfl, rfl, rfl⟩,
      fun r hr => ?_, (if_pos ⟨key, lowestPressed_pressed h⟩).symm, .of_eq rfl rfl⟩
    exact State.getV_setV_ne _ _ (by simpa [writtenRegs] using hr)
  | none =>
    refine ⟨_, execLdKey_of_none (s := s.advance) x h, ?_⟩
    rw [State.rewind_advance]
    have hnone : ¬ ∃ k : Reg, s.keys[k.val] = true := by
      simpa using lowestPressed_none.1 h
    exact .of_setPc (w := s.pc) (if_neg hnone).symm

/-- Everything the execute stage of a tick can do. -/
theorem executesOrFaults (i : Instr) (s : State) : ExecutesOrFaults i s := by
  cases i with
  | ret => exact executesOrFaults_ret s
  | call nnn => exact executesOrFaults_call nnn s
  | skp x => exact executesOrFaults_skp x s
  | sknp x => exact executesOrFaults_sknp x s
  | drw x y n => exact executesOrFaults_drw x y n s
  | ldKey x => exact executesOrFaults_ldKey x s
  | jp nnn => exact .inr ⟨rfl, _, rfl, .of_setPc (addrOperand_toNat nnn)⟩
  | jpV0 nnn => exact .inr ⟨rfl, _, rfl, .of_setPc (indexedTarget_toNat s nnn)⟩
  | seImm | sneImm | seReg | sneReg =>
    refine .inr ⟨rfl, _, congrArg Host.Outcome.next (s.skipIf_advance _), .of_setPc ?_⟩
    simp [PcAfter, State.advance]
  | nop | cls | ldIndex | addIndex | ldFont | ldDelay | ldSound =>
    exact .inr ⟨rfl, _, rfl, rfl, rfl, ⟨rfl, rfl, rfl, rfl⟩, fun _ _ => rfl, rfl, .of_eq rfl rfl⟩
  | ldImm | addImm | ldReg | orReg | andReg | xorReg | rnd | ldFromDelay =>
    refine .inr ⟨rfl, _, rfl, rfl, rfl, ⟨rfl, rfl, rfl, rfl⟩, fun r hr => ?_, rfl, .of_eq rfl rfl⟩
    exact State.getV_setV_ne _ _ (by simpa [writtenRegs] using hr)
  | addReg x | subReg x | shr x | subnReg x | shl x =>
    refine .inr ⟨rfl, _, rfl, rfl, rfl, ⟨rfl, rfl, rfl, rfl⟩, fun r hr => ?_, rfl, .of_eq rfl rfl⟩
    obtain ⟨hx, hflag⟩ : r ≠ x ∧ r ≠ regF := by simpa [writtenRegs] using hr
    exact State.writeWithFlag_other _ _ _ hx hflag

/-- The execute stage always answers a next state: the fault entry or that of a completed
instruction. -/
theorem exec_next_cases {i : Instr} {s t : State} (h : exec i s.advance = .next t) :
    (∃ cause, cause ≠ .noFault ∧ t = s.advance.raise cause (s.advance.pc - 2) (encode i)) ∨
      Completed i s t := by
  obtain ⟨hne, hraise⟩ | ⟨-, t', ht', hdone⟩ := executesOrFaults i s
  · rw [hraise] at h
    cases h
    exact .inl ⟨_, hne, rfl⟩
  · rw [ht'] at h
    cases h
    exact .inr hdone

/-- Every state is one that the fetch stage has advanced. -/
@[simp] theorem State.advance_rewind (s : State) : s.rewind.advance = s :=
  congrArg s.setPc (BitVec.sub_add_cancel s.pc 2)

/-- Settles O30: a fault writes no register, and an instruction that completes only those listed. -/
theorem onlyTheListedRegistersAreWritten : Obligations.OnlyTheListedRegistersAreWritten := by
  intro i s t r h hr
  rw [← s.advance_rewind] at h
  obtain ⟨cause, -, rfl⟩ | hdone := exec_next_cases h
  · rfl
  · exact hdone.registers r hr

/-! ### What a tick of a running engine can do -/

theorem instrAt_of_decode {s : State} {op : Word} {i : Instr} (hf : s.fetch = some op)
    (hd : decode op = .instr i) : instrAt s = some i := by
  simp only [instrAt, hf, hd]

theorem instrAt_of_fetch_none {s : State} (hf : s.fetch = none) : instrAt s = none := by
  simp only [instrAt, hf]

/-- A tick of a running engine takes a fault in the fetch stage, takes one later, with pc advanced, or
completes its instruction (R90 to R93, R186). -/
theorem step_next_cases {s t : State} (h : step s = .next t) :
    (s.fetch = none ∧ t = s.raiseInFetch) ∨
    (∃ op cause addr word, s.fetch = some op ∧ cause ≠ .noFault ∧
      t = s.advance.raise cause addr word) ∨
    (∃ op i, s.fetch = some op ∧ instrAt s = some i ∧ Completed i s t) := by
  obtain ⟨-, hstep⟩ | ⟨-, hf, hstep⟩ | ⟨op, g, -, hf, -, hstep⟩ | ⟨op, i, -, hf, hd, hstep⟩ :=
    step_cases s
  · rw [hstep] at h
    cases h
  · rw [hstep] at h
    cases h
    exact .inl ⟨hf, rfl⟩
  · rw [hstep] at h
    cases h
    exact .inr (.inl ⟨op, .invalidOpcode, _, _, hf, by decide, rfl⟩)
  · rw [hstep] at h
    obtain ⟨cause, hne, rfl⟩ | hdone := exec_next_cases h
    · exact .inr (.inl ⟨op, cause, _, _, hf, hne, rfl⟩)
    · exact .inr (.inr ⟨op, i, hf, instrAt_of_decode hf hd, hdone⟩)

/-- A completed instruction leaves the engine running. -/
theorem Completed.running {i : Instr} {s t : State} (h : Completed i s t) (hs : Running s) :
    Running t :=
  h.latch.1.trans hs

/-- Settles O10, by the three ways a tick can end. -/
theorem pcAfterEveryTick : Obligations.PcAfterEveryTick := by
  intro s t hs h
  obtain ⟨hf, rfl⟩ | ⟨op, cause, addr, word, hf, -, rfl⟩ | ⟨op, i, hf, hi, hdone⟩ :=
    step_next_cases h
  · exact ⟨fun _ => rfl, by simp [hf], by simp [instrAt_of_fetch_none hf]⟩
  · exact ⟨by simp [hf], fun _ _ _ => rfl, fun _ _ hrun => nomatch hrun⟩
  · refine ⟨by simp [hf], fun _ _ hhalt => ?_, fun j hj _ => ?_⟩
    · exact absurd ((hdone.running hs).symm.trans hhalt) Bool.false_ne_true
    · rw [hi] at hj
      cases hj
      exact hdone.pc

/-! ### The invariant -/

/-- The bound on pc that lets a tick fetch (R91). -/
theorem pc_le_of_fetch {s : State} {op : Word} (h : s.fetch = some op) : s.pc.toNat ≤ 0xFFE := by
  obtain ⟨hle, -⟩ | ⟨-, hnone⟩ := s.fetch_cases
  · exact hle
  · rw [hnone] at h
    cases h

/-- Where a fetch succeeds, `a + 2` is at most 0x1000 (R26). -/
theorem pc_add_two_le_of_fetch {s : State} {op : Word} (h : s.fetch = some op) :
    (s.pc + 2).toNat ≤ 0x1000 := by
  have hle := pc_le_of_fetch h
  have h2 : (2 : Word).toNat = 2 := rfl
  rw [BitVec.toNat_add, h2]
  omega

theorem pc_add_four_le_of_fetch {s : State} {op : Word} (h : s.fetch = some op) :
    (s.pc + 4).toNat ≤ 0x1002 := by
  have hle := pc_le_of_fetch h
  have h4 : (4 : Word).toNat = 4 := rfl
  rw [BitVec.toNat_add, h4]
  omega

/-- A fault entry with a cause keeps the invariant where pc stays within its bound. -/
theorem Inv.raise {s : State} {cause : FaultCause} (addr word : Word) (hne : cause ≠ .noFault)
    (h : Inv s) : Inv (s.raise cause addr word) where
  memory := h.memory
  latchClear hrun := nomatch hrun
  latchCause _ := hne
  pcBound := h.pcBound
  stackBound := h.stackBound

/-- The fetch stage's advance keeps the invariant (R26). -/
theorem Inv.advance {s : State} {op : Word} (hf : s.fetch = some op) (h : Inv s) :
    Inv s.advance :=
  { h with pcBound := (pc_add_two_le_of_fetch hf).trans (by decide) }

/-- A skip leaves pc within the bound of R26, whether it is taken or not. -/
theorem skipPc_le_of_fetch {s : State} {op : Word} (hf : s.fetch = some op) (c : Prop) [Decidable c] :
    (if c then s.pc + 4 else s.pc + 2).toNat ≤ 0x10FE := by
  split
  · exact (pc_add_four_le_of_fetch hf).trans (by decide)
  · exact (pc_add_two_le_of_fetch hf).trans (by decide)

/-- Wherever R25 puts pc after a fetched instruction, it is within the bound of R26. -/
theorem PcAfter.pcBound {i : Instr} {s t : State} {op : Word} (hf : s.fetch = some op) (hs : Inv s)
    (h : PcAfter i s t) : t.pc.toNat ≤ 0x10FE := by
  cases i with
  | ret =>
    obtain ⟨k, hk, hpc⟩ := h
    rw [hpc]
    exact (hs.stackBound k (by omega)).trans (by decide)
  | jp nnn | call nnn =>
    have hpc : t.pc.toNat = nnn.toNat := h
    have hn : nnn.toNat < 4096 := nnn.isLt
    omega
  | jpV0 nnn =>
    have hpc : t.pc.toNat = (s.getV 0).toNat + nnn.toNat := h
    have hv : (s.getV 0).toNat < 256 := (s.getV 0).isLt
    have hn : nnn.toNat < 4096 := nnn.isLt
    omega
  | seImm | sneImm | seReg | sneReg => exact h ▸ skipPc_le_of_fetch hf _
  | skp | sknp =>
    obtain ⟨k, -, hpc⟩ := h
    exact hpc ▸ skipPc_le_of_fetch hf _
  | ldKey =>
    rw [show t.pc = _ from h]
    split
    · exact (pc_add_two_le_of_fetch hf).trans (by decide)
    · exact (pc_le_of_fetch hf).trans (by decide)
  | nop | cls | ldImm | addImm | ldReg | orReg | andReg | xorReg | addReg | subReg | shr | subnReg
  | shl | ldIndex | rnd | drw | ldFromDelay | ldDelay | ldSound | addIndex | ldFont =>
    have hpc : t.pc = s.pc + 2 := h
    exact hpc ▸ (pc_add_two_le_of_fetch hf).trans (by decide)

/-- An entry in use after a fetched instruction is within the bound of R100. -/
theorem StackGrowsByReturnAddress.stackBound {s t : State} {op : Word} (hf : s.fetch = some op)
    (hs : Inv s) (h : StackGrowsByReturnAddress s t) (k : Fin 16) (hk : k.val < t.sp.val) :
    t.stack[k.val].toNat ≤ 0x1000 := by
  obtain ⟨hold, he⟩ | he := h k hk <;> rw [he]
  · exact hs.stackBound k hold
  · exact pc_add_two_le_of_fetch hf

/-- A completed instruction keeps the invariant. -/
theorem Completed.inv {i : Instr} {s t : State} {op : Word} (hf : s.fetch = some op) (hs : Inv s)
    (h : Completed i s t) : Inv t := by
  obtain ⟨hhalted, hcause, haddr, hop⟩ := h.latch
  refine ⟨?_, ?_, ?_, h.pc.pcBound hf hs, h.stack.stackBound hf hs⟩
  · rw [h.font, h.memory]
    exact hs.memory
  · rw [hhalted, hcause, haddr, hop]
    exact hs.latchClear
  · rw [hhalted, hcause]
    exact hs.latchCause

/-- Settles O51, by the three ways a tick can end. -/
theorem invariantIsKeptByEveryStep : Obligations.InvariantIsKeptByEveryStep := by
  intro s t hs h
  obtain ⟨-, rfl⟩ | ⟨op, cause, addr, word, hf, hne, rfl⟩ | ⟨op, i, hf, -, hdone⟩ :=
    step_next_cases h
  · exact hs.raise _ _ (by decide)
  · exact (hs.advance hf).raise _ _ hne
  · exact hdone.inv hf hs

/-- After a reset, in any state, the invariant holds. -/
theorem inv_doReset (s : State) : Inv s.doReset where
  memory := Memory.wf_nil s.font
  latchClear _ := ⟨rfl, rfl, rfl⟩
  latchCause hhalt := nomatch hhalt
  pcBound := show (0x0200#16).toNat ≤ 0x10FE by decide
  stackBound k hk := absurd hk (Nat.not_lt_zero k.val)

/-- Power-on is a state that a reset leaves (R171). -/
theorem doReset_reset : State.reset.doReset = State.reset := rfl

/-- Settles O50: nothing is listed in memory, the latch is clear and no stack entry is in use. -/
theorem invariantHoldsAfterReset : Obligations.InvariantHoldsAfterReset :=
  ⟨doReset_reset ▸ inv_doReset State.reset, inv_doReset⟩

/-- No step changes the parameter `FONT`. -/
theorem step_font {s t : State} (h : step s = .next t) : t.font = s.font := by
  obtain ⟨-, rfl⟩ | ⟨_, _, _, _, -, -, rfl⟩ | ⟨_, _, -, -, hdone⟩ := step_next_cases h
  · rfl
  · rfl
  · exact hdone.font

/-- A tick keeps the invariant and `FONT`. -/
theorem tick_inv {s : State} (hs : Inv s) : Inv (tick s).1 ∧ (tick s).1.font = s.font := by
  obtain h | h := tick_state_cases s
  · exact ⟨invariantIsKeptByEveryStep s _ hs h, step_font h⟩
  · rw [h]
    exact ⟨hs, rfl⟩

/-- Every operation of the host keeps the invariant and `FONT`. -/
theorem applyOp_inv {s : State} (op : HostOp) (hs : Inv s) :
    Inv (applyOp op s).1 ∧ (applyOp op s).1.font = s.font := by
  cases op with
  | tick => exact tick_inv hs
  | tickTimers => exact ⟨{ hs with }, rfl⟩
  | reset => exact ⟨inv_doReset s, rfl⟩
  | getDisplay => exact ⟨hs, rfl⟩
  | keyPress j p =>
    simp only [applyOp, keyPress]
    split
    · exact ⟨{ hs with }, rfl⟩
    · exact ⟨hs, rfl⟩
  | loadRom bytes =>
    simp only [applyOp, loadRom]
    split
    · exact ⟨hs, rfl⟩
    · have hwf := State.memWriteAll_wf bytes s Config.romBase hs.memory
      obtain ⟨m, hm⟩ := State.memWriteAll_eq bytes s Config.romBase
      rw [hm] at hwf ⊢
      exact ⟨{ hs with memory := hwf }, rfl⟩

/-- Settles O52, by induction over the operations. -/
theorem invariantIsKeptByEveryOperation : Obligations.InvariantIsKeptByEveryOperation := by
  intro ops
  induction ops with
  | nil => exact fun s hs => ⟨hs, rfl⟩
  | cons op ops ih =>
    intro s hs
    obtain ⟨hinv, hfont⟩ := applyOp_inv op hs
    obtain ⟨hinv', hfont'⟩ := ih _ hinv
    exact ⟨hinv', hfont'.trans hfont⟩

/-! ### Reset -/

/-- Reset leaves nothing listed in memory, so a byte reads as its reset byte (R39). -/
theorem doReset_memRead (s : State) {a : Nat} (ha : a ≤ 0xFFF) :
    s.doReset.memRead a = some (unlistedByte s.font a) :=
  if_neg (by omega)

/-- Settles O1: the bytes are those unlisted, and every other piece is a constant. -/
theorem resetLeavesTheStatedValues : Obligations.ResetLeavesTheStatedValues := by
  rintro s _ rfl
  refine ⟨fun a ha => ?_, fun a hlow hhigh => ?_, rfl, fun r => ?_, rfl, rfl, fun k => ?_,
    fun k => ?_, rfl, rfl, fun x y => ?_, rfl, rfl, rfl, rfl, rfl, doReset_reset⟩
  · exact (doReset_memRead s (by omega)).trans (congrArg some (dif_pos ha))
  · exact (doReset_memRead s hhigh).trans (congrArg some (dif_neg (Nat.not_lt.2 hlow)))
  · exact Vector.getElem_replicate r.isLt
  · exact Vector.getElem_replicate k.isLt
  · exact Vector.getElem_replicate k.isLt
  · exact Framebuffer.pixel_allOff x y

/-! ### The return stack is read and written by RET and CALL alone (R28) -/

/-- A meaning that neither reads nor writes the stack entries, nor moves `sp`: with any other entries
it leaves the same state but for them. -/
def OffStack (m : State → Outcome) : Prop :=
  ∀ s : State, ∃ s' : State, s'.sp = s.sp ∧
    ∀ k : Vector Word 16, m (s.setStack k) = .next (s'.setStack k)

/-- A meaning that is one update of the state is off the stack when its update is. -/
theorem OffStack.next {f : State → State} (hsp : ∀ s, (f s).sp = s.sp)
    (hf : ∀ s k, f (s.setStack k) = (f s).setStack k) : OffStack fun s => .next (f s) := by
  intro s
  exact ⟨f s, hsp s, fun k => congrArg Host.Outcome.next (hf s k)⟩

@[simp] theorem State.skipIf_sp (s : State) (c : Bool) : (s.skipIf c).sp = s.sp := by
  rw [State.skipIf_eq, State.setPc_sp]

theorem State.setStack_skipIf (s : State) (k : Vector Word 16) (c : Bool) :
    (s.setStack k).skipIf c = (s.skipIf c).setStack k := by
  cases c <;> rfl

/-- A skip is off the stack when its condition is. -/
theorem OffStack.skipIf {c : State → Bool} (hc : ∀ s k, c (s.setStack k) = c s) :
    OffStack fun s => .next (s.skipIf (c s)) :=
  OffStack.next (fun s => s.skipIf_sp _) fun s k => by rw [hc, State.setStack_skipIf]

theorem offStack_execSkp (x : Reg) : OffStack (execSkp x) := by
  intro s
  by_cases h : (s.getV x).toNat < 16
  · exact ⟨_, s.skipIf_sp s.keys[(s.getV x).toNat], fun k =>
      (execSkp_of_lt (s := s.setStack k) h).trans (congrArg _ (s.setStack_skipIf k _))⟩
  · exact ⟨s.raise .indexOutOfRange (s.pc - 2) (encode (.skp x)), rfl, fun k => execSkp_of_not_lt h⟩

theorem offStack_execSknp (x : Reg) : OffStack (execSknp x) := by
  intro s
  by_cases h : (s.getV x).toNat < 16
  · exact ⟨_, s.skipIf_sp !s.keys[(s.getV x).toNat], fun k =>
      (execSknp_of_lt (s := s.setStack k) h).trans (congrArg _ (s.setStack_skipIf k _))⟩
  · exact ⟨s.raise .indexOutOfRange (s.pc - 2) (encode (.sknp x)), rfl, fun k => execSknp_of_not_lt h⟩

theorem offStack_execDrw (x y : Reg) (n : Nat) : OffStack (execDrw x y n) := by
  intro s
  cases h : s.readBytes s.index.toNat n with
  | some bytes =>
    exact ⟨s.afterDraw (drawRows (s.getV x) (s.getV y) 0 bytes (s.fb, false)), rfl,
      fun k => execDrw_of_some x y h⟩
  | none =>
    exact ⟨s.raise .memoryOutOfRange (s.pc - 2) (encode (.drw x y n)), rfl,
      fun k => execDrw_of_none x y h⟩

theorem offStack_execLdKey (x : Reg) : OffStack (execLdKey x) := by
  intro s
  cases h : lowestPressed s.keys with
  | some key => exact ⟨s.setV x (BitVec.ofNat 8 key.val), rfl, fun k => execLdKey_of_some x h⟩
  | none => exact ⟨s.rewind, rfl, fun k => execLdKey_of_none x h⟩

/-- Every instruction but RET and CALL is off the stack. -/
theorem exec_offStack {i : Instr} (hret : i ≠ .ret) (hcall : ∀ nnn, i ≠ .call nnn) :
    OffStack (exec i) := by
  cases i with
  | ret => exact absurd rfl hret
  | call nnn => exact absurd rfl (hcall nnn)
  | drw x y n => exact offStack_execDrw x y n
  | ldKey x => exact offStack_execLdKey x
  | skp x => exact offStack_execSkp x
  | sknp x => exact offStack_execSknp x
  | seImm | sneImm | seReg | sneReg => exact OffStack.skipIf fun _ _ => rfl
  | nop | cls | jp | jpV0 | ldIndex | addIndex | ldFont | ldDelay | ldSound | ldFromDelay
  | ldImm | addImm | ldReg | orReg | andReg | xorReg | rnd
  | addReg | subReg | shr | subnReg | shl =>
    exact OffStack.next (fun _ => rfl) fun _ _ => rfl

/-! ### Stale stack entries -/

/-- Two states differ at most in stale entries when the second is the first with other stack entries
that agree below `sp`. -/
theorem sameButStale_iff {s t : State} :
    SameButStale s t ↔ ∃ k : Vector Word 16, t = s.setStack k ∧
      ∀ j : Fin 16, j.val < s.sp.val → k[j.val] = s.stack[j.val] := by
  constructor
  · rintro ⟨ht, hk⟩
    exact ⟨t.stack, ht, hk⟩
  · rintro ⟨k, rfl, hk⟩
    exact ⟨rfl, hk⟩

theorem SameButStale.refl (s : State) : SameButStale s s := ⟨rfl, fun _ _ => rfl⟩

/-- RET reads an entry in use, or faults; the entry it gives up becomes stale (R30). -/
theorem execRet_sameButStale {s t : State} (h : SameButStale s t) :
    ∃ s' t', exec .ret s = .next s' ∧ exec .ret t = .next t' ∧ SameButStale s' t' := by
  obtain ⟨k, rfl, hk⟩ := sameButStale_iff.1 h
  by_cases h0 : s.sp.val = 0
  · exact ⟨_, _, execRet_of_empty h0, execRet_of_empty h0, sameButStale_iff.2 ⟨k, rfl, hk⟩⟩
  · have hpos : 0 < s.sp.val := by omega
    have htop : k[s.sp.val - 1] = s.stack[s.sp.val - 1] :=
      hk ⟨s.sp.val - 1, by omega⟩ (Nat.sub_lt hpos Nat.one_pos)
    refine ⟨_, _, execRet_of_pos hpos, execRet_of_pos (s := s.setStack k) hpos,
      sameButStale_iff.2 ⟨k, ?_, fun j hj => hk j ?_⟩⟩
    · simp only [State.setStack_stack, State.setStack_sp, htop]
      rfl
    · exact Nat.lt_of_lt_of_le hj (Nat.sub_le _ _)

/-- CALL writes the same word over the first stale entry of both, or faults (R29). -/
theorem execCall_sameButStale {s t : State} (nnn : Addr12) (h : SameButStale s t) :
    ∃ s' t', exec (.call nnn) s = .next s' ∧ exec (.call nnn) t = .next t' ∧
      SameButStale s' t' := by
  obtain ⟨k, rfl, hk⟩ := sameButStale_iff.1 h
  by_cases hlt : s.sp.val < 16
  · refine ⟨_, _, execCall_of_lt nnn hlt, execCall_of_lt (s := s.setStack k) nnn hlt,
      sameButStale_iff.2 ⟨k.set s.sp.val s.pc, rfl, fun j hj => ?_⟩⟩
    by_cases hj' : j.val = s.sp.val
    · simp [hj']
    · have hlow : j.val < s.sp.val := by
        have : j.val < s.sp.val + 1 := hj
        omega
      have hne : s.sp.val ≠ j.val := fun e => hj' e.symm
      simp [Vector.getElem_set_ne _ _ hne, hk j hlow]
  · have hfull : s.sp.val = 16 := by omega
    exact ⟨_, _, execCall_of_full nnn hfull, execCall_of_full nnn hfull,
      sameButStale_iff.2 ⟨k, rfl, hk⟩⟩

/-- No instruction tells stale entries apart. -/
theorem exec_sameButStale {s t : State} (i : Instr) (h : SameButStale s t) :
    ∃ s' t', exec i s = .next s' ∧ exec i t = .next t' ∧ SameButStale s' t' := by
  by_cases hret : i = .ret
  · subst hret
    exact execRet_sameButStale h
  by_cases hcall : ∃ nnn, i = .call nnn
  · obtain ⟨nnn, rfl⟩ := hcall
    exact execCall_sameButStale nnn h
  obtain ⟨k, rfl, hk⟩ := sameButStale_iff.1 h
  obtain ⟨s', hsp, hexec⟩ := exec_offStack hret (fun nnn e => hcall ⟨nnn, e⟩) s
  refine ⟨s'.setStack s.stack, s'.setStack k, hexec s.stack, hexec k,
    sameButStale_iff.2 ⟨k, rfl, fun j hj => hk j ?_⟩⟩
  rwa [State.setStack_sp, hsp] at hj

/-- No step of a running engine tells stale entries apart. -/
theorem step_sameButStale {s t : State} (h : SameButStale s t) (hs : s.halted = false) :
    ∃ s' t', step s = .next s' ∧ step t = .next t' ∧ SameButStale s' t' := by
  obtain ⟨k, rfl, hk⟩ := sameButStale_iff.1 h
  have ht : (s.setStack k).halted = false := hs
  obtain ⟨hs', -⟩ | ⟨-, hf, -⟩ | ⟨op, g, -, hf, hd, -⟩ | ⟨op, i, -, hf, hd, -⟩ := step_cases s
  · rw [hs] at hs'
    cases hs'
  · exact ⟨_, _, step_of_fetch_none hs hf, step_of_fetch_none ht hf,
      sameButStale_iff.2 ⟨k, rfl, hk⟩⟩
  · exact ⟨_, _, step_of_illegal hs hf hd, step_of_illegal ht hf hd,
      sameButStale_iff.2 ⟨k, rfl, hk⟩⟩
  · rw [step_of_instr hs hf hd, step_of_instr ht hf hd]
    exact exec_sameButStale i (sameButStale_iff.2 ⟨k, rfl, hk⟩)

/-- The two answers are the same and the two states differ at most in stale entries. -/
def SameAnswerButStale (p q : State × Response) : Prop := p.2 = q.2 ∧ SameButStale p.1 q.1

/-- No tick tells stale entries apart. -/
theorem tick_sameButStale {s t : State} (h : SameButStale s t) :
    SameAnswerButStale (tick s) (tick t) := by
  cases hs : s.halted with
  | true =>
    obtain ⟨k, rfl, -⟩ := sameButStale_iff.1 h
    rw [tick_of_halted hs, tick_of_halted (s := s.setStack k) hs]
    exact ⟨rfl, h⟩
  | false =>
    obtain ⟨s', t', hs', ht', h'⟩ := step_sameButStale h hs
    rw [tick_of_next hs', tick_of_next ht']
    obtain ⟨k, rfl, -⟩ := sameButStale_iff.1 h'
    exact ⟨rfl, h'⟩

/-- Storing a byte does not touch the stack. -/
theorem State.setStack_memWrite (s : State) (k : Vector Word 16) (a : Nat) (b : Byte) :
    (s.setStack k).memWrite a b = (s.memWrite a b).setStack k := by
  unfold State.memWrite
  split <;> rfl

/-- Storing bytes does not touch the stack. -/
theorem State.setStack_memWriteAll (bytes : List Byte) (s : State) (k : Vector Word 16) (a : Nat) :
    (s.setStack k).memWriteAll a bytes = (s.memWriteAll a bytes).setStack k := by
  induction bytes generalizing s a with
  | nil => rfl
  | cons b bs ih => rw [State.memWriteAll, State.setStack_memWrite, ih, State.memWriteAll]

/-- Storing bytes does not tell stale entries apart. -/
theorem memWriteAll_sameButStale {s t : State} (a : Nat) (bytes : List Byte)
    (h : SameButStale s t) : SameButStale (s.memWriteAll a bytes) (t.memWriteAll a bytes) := by
  obtain ⟨k, rfl, hk⟩ := sameButStale_iff.1 h
  refine sameButStale_iff.2 ⟨k, State.setStack_memWriteAll bytes s k a, ?_⟩
  obtain ⟨m, hm⟩ := State.memWriteAll_eq bytes s a
  rwa [hm]

/-- No operation of the host tells stale entries apart. -/
theorem applyOp_sameButStale {s t : State} (op : HostOp) (h : SameButStale s t) :
    SameAnswerButStale (applyOp op s) (applyOp op t) := by
  obtain ⟨k, rfl, hk⟩ := sameButStale_iff.1 h
  cases op with
  | tick => exact tick_sameButStale h
  | tickTimers => exact ⟨rfl, sameButStale_iff.2 ⟨k, rfl, hk⟩⟩
  | reset => exact ⟨rfl, SameButStale.refl _⟩
  | getDisplay => exact ⟨rfl, h⟩
  | keyPress j p =>
    simp only [applyOp, keyPress]
    split
    · exact ⟨rfl, sameButStale_iff.2 ⟨k, rfl, hk⟩⟩
    · exact ⟨rfl, h⟩
  | loadRom bytes =>
    simp only [applyOp, loadRom]
    split
    · exact ⟨rfl, h⟩
    · exact ⟨rfl, memWriteAll_sameButStale _ bytes h⟩

/-- Settles O22, by induction over the operations: each keeps the relation and gives equal results. -/
theorem staleStackEntriesAreUnobservable : Obligations.StaleStackEntriesAreUnobservable := by
  intro ops
  induction ops with
  | nil => exact fun s t h => ⟨rfl, h⟩
  | cons op ops ih =>
    intro s t h
    obtain ⟨hanswer, hstates⟩ := applyOp_sameButStale op h
    obtain ⟨hrest, hend⟩ := ih _ _ hstates
    exact ⟨congrArg₂ List.cons hanswer hrest, hend⟩

end Sys2Proof.Machine

/-!
PROOFS. The statements of spec/20_memory.md: what a store does to a byte that is read, which
operations of the host reach memory, and the instruction placed at pc. `applyOp_memory_cases`
says once which operations leave memory alone and `decode_encode` that the word of a well-formed
instruction decodes to it.
-/
namespace Sys2Proof

/-! ### The word of an instruction -/

/-- A word decodes to the instruction it encodes (R74, R75): d1 chooses the group, d4 or the low byte
the row within it, and the fields read back as they were put in. -/
theorem decode_encode {i : Instr} (hwf : i.wf = true) : decode (encode i) = .instr i := by
  cases i with
  | nop | cls | ret => rfl
  | jp | call | ldIndex | jpV0 => simp [encode, decode]
  | seImm | sneImm | ldImm | addImm | rnd => simp [encode, decode]
  | seReg | sneReg => simp [encode, decode]
  | ldReg | orReg | andReg | xorReg | addReg | subReg | shr | subnReg | shl =>
    simp [encode, decode, decodeGroup8]
  | drw x y n =>
    have hn : n < 16 := of_decide_eq_true hwf
    simp [encode, decode, Nat.mod_eq_of_lt hn]
  | skp | sknp => simp [encode, decode, decodeGroupE]
  | ldFromDelay | ldKey | ldDelay | ldSound | addIndex | ldFont =>
    simp [encode, decode, decodeGroupF]

@[simp] theorem bytesOfWord_length (w : Word) : (bytesOfWord w).length = 2 := rfl

/-- The table's numbering of a word's 16 bits gives the word again. -/
theorem wordOfTable_toNat (w : Word) : wordOfTable 16 w.toNat = w := by
  rw [wordOfTable, Nat.mod_eq_of_lt w.isLt, BitVec.ofNat_toNat, BitVec.setWidth_eq]

end Sys2Proof

namespace Sys2Proof.Machine

/-! ### Reading after stores -/

/-- What a read answers follows from the byte there. -/
theorem State.memRead_of_byteAt {s t : State} {a : Nat} (h : t.byteAt a = s.byteAt a) :
    t.memRead a = s.memRead a := by
  simp only [State.memRead, h]

/-- States with the same memory and the same `FONT` read alike. -/
theorem State.memRead_of_mem {s t : State} (hmem : t.mem = s.mem) (hfont : t.font = s.font)
    (a : Nat) : t.memRead a = s.memRead a :=
  State.memRead_of_byteAt (by simp only [State.byteAt, hmem, hfont])

/-- A store leaves every other byte, whatever address it is given. -/
theorem State.memWrite_byteAt_ne (s : State) {a a' : Nat} (b : Byte)
    (hs : Memory.wf s.font s.mem = true) (hne : a' ≠ a) :
    (s.memWrite a b).byteAt a' = s.byteAt a' := by
  obtain ⟨ha, -⟩ | ⟨-, h⟩ := s.memWrite_cases a b
  · exact (s.memWrite_byteAt a' b hs ha).trans (if_neg hne)
  · rw [h]

/-- Storing bytes leaves every byte outside their range. -/
theorem State.memWriteAll_byteAt_outside (bytes : List Byte) (s : State) {a a' : Nat}
    (hs : Memory.wf s.font s.mem = true) (hout : a' < a ∨ a + bytes.length ≤ a') :
    (s.memWriteAll a bytes).byteAt a' = s.byteAt a' := by
  induction bytes generalizing s a with
  | nil => rfl
  | cons b bs ih =>
    rw [List.length_cons] at hout
    calc ((s.memWrite a b).memWriteAll (a + 1) bs).byteAt a'
        = (s.memWrite a b).byteAt a' := ih _ (s.memWrite_wf a b hs) (by omega)
      _ = s.byteAt a' := s.memWrite_byteAt_ne b hs (by omega)

/-- Bytes stored within memory read back in their order. -/
theorem State.memWriteAll_byteAt_inside (bytes : List Byte) (s : State) {a k : Nat}
    (hs : Memory.wf s.font s.mem = true) (hfit : a + bytes.length ≤ Config.memSize)
    (hk : k < bytes.length) : (s.memWriteAll a bytes).byteAt (a + k) = bytes[k] := by
  induction bytes generalizing s a k with
  | nil => exact absurd hk (Nat.not_lt_zero k)
  | cons b bs ih =>
    rw [List.length_cons] at hfit hk
    have hs' := s.memWrite_wf a b hs
    cases k with
    | zero =>
      calc ((s.memWrite a b).memWriteAll (a + 1) bs).byteAt a
          = (s.memWrite a b).byteAt a :=
            State.memWriteAll_byteAt_outside bs _ hs' (.inl (Nat.lt_succ_self a))
        _ = b := (s.memWrite_byteAt a b hs (by omega)).trans (if_pos rfl)
    | succ j =>
      calc ((s.memWrite a b).memWriteAll (a + 1) bs).byteAt (a + (j + 1))
          = ((s.memWrite a b).memWriteAll (a + 1) bs).byteAt (a + 1 + j) := by
            rw [Nat.add_comm j 1, Nat.add_assoc]
        _ = bs[j] := ih _ hs' (by omega) (by omega)

/-! ### Which operations reach memory (R54) -/

/-- No step changes memory, whether it faults or completes its instruction. -/
theorem step_mem {s t : State} (h : step s = .next t) : t.mem = s.mem := by
  obtain ⟨-, rfl⟩ | ⟨_, _, _, _, -, -, rfl⟩ | ⟨_, _, -, -, hdone⟩ := step_next_cases h
  · rfl
  · rfl
  · exact hdone.memory

/-- Only `reset` and `load_rom` reach memory. -/
theorem applyOp_memory_cases (op : HostOp) (s : State) :
    op = .reset ∨ (∃ bytes, op = .loadRom bytes) ∨
      ((applyOp op s).1.mem = s.mem ∧ (applyOp op s).1.font = s.font) := by
  cases op with
  | reset => exact .inl rfl
  | loadRom bytes => exact .inr (.inl ⟨bytes, rfl⟩)
  | tick =>
    right; right
    obtain h | h := tick_state_cases s
    · exact ⟨step_mem h, step_font h⟩
    · exact ⟨congrArg State.mem h, congrArg State.font h⟩
  | tickTimers | getDisplay => exact .inr (.inr ⟨rfl, rfl⟩)
  | keyPress k p =>
    right; right
    simp only [applyOp, keyPress]
    split <;> exact ⟨rfl, rfl⟩

theorem applyOp_memRead {op : HostOp} (s : State) (hreset : op ≠ .reset)
    (hload : ∀ bytes, op ≠ .loadRom bytes) (a : Nat) :
    (applyOp op s).1.memRead a = s.memRead a := by
  obtain h | ⟨bytes, h⟩ | ⟨hmem, hfont⟩ := applyOp_memory_cases op s
  · exact absurd h hreset
  · exact absurd h (hload bytes)
  · exact State.memRead_of_mem hmem hfont a

/-- `load_rom` stores its image at 0x200, or refuses it and leaves the state (R172). -/
theorem applyOp_loadRom_cases (bytes : List Byte) (s : State) :
    (applyOp (.loadRom bytes) s).1 = s ∨
      (applyOp (.loadRom bytes) s).1 = s.memWriteAll Config.romBase bytes := by
  simp only [applyOp, loadRom]
  split
  · exact .inl rfl
  · exact .inr rfl

/-- `load_rom` leaves every byte outside its image. -/
theorem applyOp_loadRom_memRead (bytes : List Byte) (s : State) {a : Nat}
    (hs : Memory.wf s.font s.mem = true) (hout : a < 0x200 ∨ 0x200 + bytes.length ≤ a) :
    (applyOp (.loadRom bytes) s).1.memRead a = s.memRead a := by
  obtain h | h := applyOp_loadRom_cases bytes s <;> rw [h]
  exact State.memRead_of_byteAt (State.memWriteAll_byteAt_outside bytes s hs hout)

/-- Every operation keeps the canonical form of memory. -/
theorem applyOp_wf (op : HostOp) (s : State) (hs : Memory.wf s.font s.mem = true) :
    Memory.wf (applyOp op s).1.font (applyOp op s).1.mem = true := by
  obtain rfl | ⟨bytes, rfl⟩ | ⟨hmem, hfont⟩ := applyOp_memory_cases op s
  · exact Memory.wf_nil s.font
  · obtain h | h := applyOp_loadRom_cases bytes s <;> rw [h]
    · exact hs
    · exact s.memWriteAll_wf bytes Config.romBase hs
  · rwa [hmem, hfont]

/-- Only `reset` writes below 0x200. -/
theorem applyOp_memRead_low {op : HostOp} {s : State} {a : Nat} (hreset : op ≠ .reset)
    (hs : Memory.wf s.font s.mem = true) (ha : a < 0x200) :
    (applyOp op s).1.memRead a = s.memRead a := by
  obtain h | ⟨bytes, rfl⟩ | ⟨hmem, hfont⟩ := applyOp_memory_cases op s
  · exact absurd h hreset
  · exact applyOp_loadRom_memRead bytes s hs (.inl ha)
  · exact State.memRead_of_mem hmem hfont a

/-- A byte that each operation of a list leaves, in the states where `P` holds, is left by the list. -/
theorem runOps_memRead {P : State → Prop} {a : Nat} {ops : List HostOp} {s : State} (hP : P s)
    (hop : ∀ op ∈ ops, ∀ s, P s →
      P (applyOp op s).1 ∧ (applyOp op s).1.memRead a = s.memRead a) :
    (runOps ops s).memRead a = s.memRead a := by
  induction ops generalizing s with
  | nil => rfl
  | cons op ops ih =>
    obtain ⟨hP', hread⟩ := hop op List.mem_cons_self s hP
    exact (ih hP' fun op' h => hop op' (List.mem_cons_of_mem op h)).trans hread

/-- Settles O47, clause by clause: a store, a tick, an operation, `load_rom`, and two inductions over
lists of operations. -/
theorem instructionsNeverWriteMemory : Obligations.InstructionsNeverWriteMemory := by
  refine ⟨fun s a b hs ha => ⟨?_, fun a' hne => ?_⟩, fun s t h => ?_, ?_, ?_, ?_, ?_⟩
  · have hread := (s.memWrite_byteAt a b hs (Nat.lt_succ_of_le ha)).trans (if_pos rfl)
    exact (if_neg (by omega)).trans (congrArg some hread)
  · exact State.memRead_of_byteAt (s.memWrite_byteAt_ne b hs hne)
  · exact State.memRead_of_mem (step_mem h) (step_font h)
  · exact fun op s => applyOp_memRead s
  · exact fun bytes s hs a => applyOp_loadRom_memRead bytes s hs
  · intro ops s hs hreset a ha
    exact runOps_memRead (P := fun t => Memory.wf t.font t.mem = true) hs fun op hmem t ht =>
      ⟨applyOp_wf op t ht, applyOp_memRead_low (ne_of_mem_of_not_mem hmem hreset) ht ha⟩
  · intro ops s hreset hload a
    exact runOps_memRead (P := fun _ => True) trivial fun op hmem t _ =>
      ⟨trivial, applyOp_memRead t (ne_of_mem_of_not_mem hmem hreset)
        (fun bytes => ne_of_mem_of_not_mem hmem (hload bytes)) a⟩

/-! ### The instruction placed at pc -/

/-- A state and the same state with another memory differ in memory alone. -/
theorem frameExcept_setMem (s : State) (m : Memory) : FrameExcept [] [.memory] s (s.setMem m) := by
  refine ⟨fun _ _ => rfl, fun p hp => ?_⟩
  cases p with
  | memory => exact absurd List.mem_cons_self hp
  | latch => exact ⟨rfl, rfl, rfl, rfl⟩
  | framebuffer => exact fun _ _ => rfl
  | pc | index | stackEntries | stackPointer | keys | delayTimer | soundTimer | font | draws => rfl

/-- Placing an instruction stores the bytes of its word at pc. -/
theorem State.withFetchWord_encode (s : State) (i : Instr) :
    s.withFetchWord 16 (encode i).toNat = s.memWriteAll s.pc.toNat (bytesOfWord (encode i)) := by
  rw [State.withFetchWord, wordOfTable_toNat]

/-- Placing an instruction changes memory alone. -/
theorem State.withFetchWord_eq (s : State) (nbits w : Nat) :
    ∃ m, s.withFetchWord nbits w = s.setMem m :=
  State.memWriteAll_eq _ s _

/-- The placed word is what the next tick fetches (R55, R91). -/
theorem State.fetch_withFetchWord {s : State} (i : Instr) (hs : Memory.wf s.font s.mem = true)
    (hpc : s.pc.toNat ≤ 0xFFE) :
    (s.withFetchWord 16 (encode i).toNat).fetch = some (encode i) := by
  have hpc' : (s.withFetchWord 16 (encode i).toNat).pc = s.pc := by
    obtain ⟨m, hm⟩ := s.withFetchWord_eq 16 (encode i).toNat
    rw [hm, State.setMem_pc]
  have hfit : s.pc.toNat + (bytesOfWord (encode i)).length ≤ Config.memSize :=
    Nat.add_le_add_right hpc 2
  have hhigh :=
    State.memWriteAll_byteAt_inside (bytesOfWord (encode i)) s (k := 0) hs hfit zero_lt_two
  have hlow :=
    State.memWriteAll_byteAt_inside (bytesOfWord (encode i)) s (k := 1) hs hfit one_lt_two
  obtain ⟨-, hfetch⟩ | ⟨hbig, -⟩ := (s.withFetchWord 16 (encode i).toNat).fetch_cases
  · rw [hfetch, hpc', State.withFetchWord_encode, hlow]
    exact congrArg some ((congrArg (opcodeOf · _) hhigh).trans (opcodeOf_bytes (encode i)))
  · rw [hpc'] at hbig
    omega

/-- Settles O49: the two bytes of the word are what the next tick fetches, and they decode to `i`. -/
theorem placedWordIsTheNextInstruction : Obligations.PlacedWordIsTheNextInstruction := by
  intro s i hrun hs hwf hpc
  have hfetch := State.fetch_withFetchWord i hs hpc
  obtain ⟨m, hm⟩ := s.withFetchWord_eq 16 (encode i).toNat
  refine ⟨?_, hm ▸ frameExcept_setMem s m, fun a h h' => ?_⟩
  · rw [hm] at hfetch ⊢
    exact step_of_instr hrun hfetch (decode_encode hwf)
  · rw [State.withFetchWord_encode]
    refine State.memRead_of_byteAt (State.memWriteAll_byteAt_outside _ s hs ?_)
    rw [bytesOfWord_length]
    omega

end Sys2Proof.Machine

/-!
PROOFS. The statements of spec/30_encoding.md. Three facts carry them: `decode_encode` (the word of an
instruction decodes to it), `decode_accounted` (a word decodes to the instruction whose word it is, or
stands in the list of R76) and `decode_of_selectsRow` (a word decodes within any row that it matches).
-/
namespace Sys2Proof.Machine

/-- Settles O11: the law `decode_encode`, by the formats of the instructions. -/
theorem decodeOfEncode : Obligations.DecodeOfEncode := fun _ => decode_encode

/-- Settles O15: each word is evaluated. -/
theorem workedWordsDecode : Obligations.WorkedWordsDecode :=
  ⟨rfl, rfl, rfl, rfl, rfl, rfl, rfl⟩

/-! ### The word with given fields -/

theorem formatA_of_fields {op : Word} {d : Nibble} (hd : fieldD1 op = d) :
    formatA d (fieldNNN op) = op :=
  hd ▸ formatA_fields op

theorem formatI_of_fields {op : Word} {d : Nibble} (hd : fieldD1 op = d) :
    formatI d (fieldX op) (fieldNN op) = op :=
  hd ▸ formatI_fields op

theorem formatK_of_fields {op : Word} {d : Nibble} {nn : Byte} (hd : fieldD1 op = d)
    (hnn : fieldNN op = nn) : formatI d (fieldX op) nn = op :=
  hnn ▸ formatI_of_fields hd

theorem formatR_of_fields {op : Word} {d n : Nibble} (hd : fieldD1 op = d) (hn : fieldN op = n) :
    formatR d (fieldX op) (fieldY op) n = op :=
  hd ▸ hn ▸ formatR_fields op

/-! ### What decoding answers -/

/-- The answer accounts for the word: the instruction is well formed and the word is its own, or the
word is listed in R76. -/
def Accounted (op : Word) : Decoded → Prop
  | .instr i => i.wf = true ∧ encode i = op
  | .illegal _ => ListedIllegal op

theorem decodeGroup0_accounted {op : Word} (hd : fieldD1 op = 0x0#4) :
    Accounted op (decodeGroup0 op) := by
  unfold decodeGroup0
  split_ifs with hnop hcls hret
  · exact ⟨rfl, hnop.symm⟩
  · exact ⟨rfl, hcls.symm⟩
  · exact ⟨rfl, hret.symm⟩
  · exact .inl ⟨hd, hnop, hcls, hret⟩

/-- The values of d4 above 7, except E, are those R76 lists for the group 8. -/
theorem nibble_mem_illegal8 {n : Nibble} (h : 7 < n.toNat ∧ n.toNat ≠ 14) :
    n ∈ [0x8#4, 0x9#4, 0xA#4, 0xB#4, 0xC#4, 0xD#4, 0xF#4] := by
  revert n; decide

theorem decodeGroup8_accounted {op : Word} (hd : fieldD1 op = 0x8#4) :
    Accounted op (decodeGroup8 op) := by
  unfold decodeGroup8
  split
  case h_10 => exact .inr (.inr (.inl ⟨hd, nibble_mem_illegal8 (by grind)⟩))
  all_goals exact ⟨rfl, formatR_of_fields hd (BitVec.eq_of_toNat_eq ‹_›)⟩

theorem decodeGroupE_accounted {op : Word} (hd : fieldD1 op = 0xE#4) :
    Accounted op (decodeGroupE op) := by
  unfold decodeGroupE
  split_ifs
  case neg => exact .inr (.inr (.inr (.inr (.inl ⟨hd, by simp [*]⟩))))
  all_goals exact ⟨rfl, formatK_of_fields hd ‹_›⟩

theorem decodeGroupF_accounted {op : Word} (hd : fieldD1 op = 0xF#4) :
    Accounted op (decodeGroupF op) := by
  unfold decodeGroupF
  split_ifs
  case neg => exact .inr (.inr (.inr (.inr (.inr ⟨hd, by simp [*]⟩))))
  all_goals exact ⟨rfl, formatK_of_fields hd ‹_›⟩

/-- Decoding accounts for every word, d1 by d1 (R74, R75, R76). -/
theorem decode_accounted (op : Word) : Accounted op (decode op) := by
  unfold decode
  split
  next hd => exact decodeGroup0_accounted (BitVec.eq_of_toNat_eq hd)
  next hd => exact ⟨rfl, formatA_of_fields (BitVec.eq_of_toNat_eq hd)⟩
  next hd => exact ⟨rfl, formatA_of_fields (BitVec.eq_of_toNat_eq hd)⟩
  next hd => exact ⟨rfl, formatI_of_fields (BitVec.eq_of_toNat_eq hd)⟩
  next hd => exact ⟨rfl, formatI_of_fields (BitVec.eq_of_toNat_eq hd)⟩
  next hd =>
    have hd5 : fieldD1 op = 0x5#4 := BitVec.eq_of_toNat_eq hd
    split_ifs with hn
    · exact ⟨rfl, formatR_of_fields hd5 hn⟩
    · exact .inr (.inl ⟨hd5, hn⟩)
  next hd => exact ⟨rfl, formatI_of_fields (BitVec.eq_of_toNat_eq hd)⟩
  next hd => exact ⟨rfl, formatI_of_fields (BitVec.eq_of_toNat_eq hd)⟩
  next hd => exact decodeGroup8_accounted (BitVec.eq_of_toNat_eq hd)
  next hd =>
    have hd9 : fieldD1 op = 0x9#4 := BitVec.eq_of_toNat_eq hd
    split_ifs with hn
    · exact ⟨rfl, formatR_of_fields hd9 hn⟩
    · exact .inr (.inr (.inr (.inl ⟨hd9, hn⟩)))
  next hd => exact ⟨rfl, formatA_of_fields (BitVec.eq_of_toNat_eq hd)⟩
  next hd => exact ⟨rfl, formatA_of_fields (BitVec.eq_of_toNat_eq hd)⟩
  next hd => exact ⟨rfl, formatI_of_fields (BitVec.eq_of_toNat_eq hd)⟩
  next hd =>
    exact ⟨decide_eq_true (fieldN op).isLt,
      formatR_of_fields (BitVec.eq_of_toNat_eq hd) (by simp)⟩
  next hd => exact decodeGroupE_accounted (BitVec.eq_of_toNat_eq hd)
  next =>
    have hlt := (fieldD1 op).isLt
    have hd : (fieldD1 op).toNat = 15 := by grind
    exact decodeGroupF_accounted (BitVec.eq_of_toNat_eq hd)

/-- Settles O12: what decoding answers accounts for the word. -/
theorem encodeOfDecode : Obligations.EncodeOfDecode := by
  intro op i h
  have haccounted := decode_accounted op
  rwa [h] at haccounted

/-! ### The rows of the opcode map -/

/-- The word of an instruction selects its row. -/
theorem encode_selectsRow : (i : Instr) → SelectsRow (encode i) i
  | .nop => Laws.EncodeMatchesRow.nop
  | .cls => Laws.EncodeMatchesRow.cls
  | .ret => Laws.EncodeMatchesRow.ret
  | .jp nnn => Laws.EncodeMatchesRow.jp nnn
  | .call nnn => Laws.EncodeMatchesRow.call nnn
  | .seImm x nn => Laws.EncodeMatchesRow.seImm x nn
  | .sneImm x nn => Laws.EncodeMatchesRow.sneImm x nn
  | .seReg x y => Laws.EncodeMatchesRow.seReg x y
  | .ldImm x nn => Laws.EncodeMatchesRow.ldImm x nn
  | .addImm x nn => Laws.EncodeMatchesRow.addImm x nn
  | .ldReg x y => Laws.EncodeMatchesRow.ldReg x y
  | .orReg x y => Laws.EncodeMatchesRow.orReg x y
  | .andReg x y => Laws.EncodeMatchesRow.andReg x y
  | .xorReg x y => Laws.EncodeMatchesRow.xorReg x y
  | .addReg x y => Laws.EncodeMatchesRow.addReg x y
  | .subReg x y => Laws.EncodeMatchesRow.subReg x y
  | .shr x y => Laws.EncodeMatchesRow.shr x y
  | .subnReg x y => Laws.EncodeMatchesRow.subnReg x y
  | .shl x y => Laws.EncodeMatchesRow.shl x y
  | .sneReg x y => Laws.EncodeMatchesRow.sneReg x y
  | .ldIndex nnn => Laws.EncodeMatchesRow.ldIndex nnn
  | .jpV0 nnn => Laws.EncodeMatchesRow.jpV0 nnn
  | .rnd x nn => Laws.EncodeMatchesRow.rnd x nn
  | .drw x y n => Laws.EncodeMatchesRow.drw x y n
  | .skp x => Laws.EncodeMatchesRow.skp x
  | .sknp x => Laws.EncodeMatchesRow.sknp x
  | .ldFromDelay x => Laws.EncodeMatchesRow.ldFromDelay x
  | .ldKey x => Laws.EncodeMatchesRow.ldKey x
  | .ldDelay x => Laws.EncodeMatchesRow.ldDelay x
  | .ldSound x => Laws.EncodeMatchesRow.ldSound x
  | .addIndex x => Laws.EncodeMatchesRow.addIndex x
  | .ldFont x => Laws.EncodeMatchesRow.ldFont x

/-- Words that agree under the mask of formats A, I and D have the same d1. -/
theorem fieldD1_eq_of_mask {v w : Word} (h : v &&& 0xF000#16 = w &&& 0xF000#16) :
    fieldD1 v = fieldD1 w :=
  fieldD1_of_mask (h.trans (by rw [← formatA_mask _ (fieldNNN w), formatA_fields]))

/-- Words that agree under the mask of format R have the same d1 and d4. -/
theorem fields_eq_of_maskR {v w : Word} (h : v &&& 0xF00F#16 = w &&& 0xF00F#16) :
    fieldD1 v = fieldD1 w ∧ fieldN v = fieldN w :=
  fields_of_maskR (h.trans (by rw [← formatR_mask _ (fieldX w) (fieldY w), formatR_fields]))

/-- Words that agree under the mask of format K have the same d1 and low byte. -/
theorem fields_eq_of_maskK {v w : Word} (h : v &&& 0xF0FF#16 = w &&& 0xF0FF#16) :
    fieldD1 v = fieldD1 w ∧ fieldNN v = fieldNN w :=
  fields_of_maskK (h.trans (by rw [← formatK_mask _ (fieldX w), formatI_fields]))

/-- A word decodes to an instruction of any row that it matches (R74): the row's mask keeps the
fields by which `decode` chooses. -/
theorem decode_of_selectsRow {op : Word} {i : Instr} (h : SelectsRow op i) :
    ∃ j : Instr, decode op = .instr j ∧ j.row = i.row := by
  have hm : op &&& i.row.2 = encode i &&& i.row.2 := h.trans (encode_selectsRow i).symm
  cases i with
  | nop | cls | ret =>
    obtain rfl : op = _ := (and_maskZ op).symm.trans h
    exact ⟨_, rfl, rfl⟩
  | jp | call | ldIndex | jpV0 | seImm | sneImm | ldImm | addImm | rnd | drw =>
    have hd := fieldD1_eq_of_mask hm
    simp [decode, hd, encode, Instr.row]
  | seReg | sneReg =>
    obtain ⟨hd, hn⟩ := fields_eq_of_maskR hm
    simp [decode, hd, hn, encode, Instr.row]
  | ldReg | orReg | andReg | xorReg | addReg | subReg | shr | subnReg | shl =>
    obtain ⟨hd, hn⟩ := fields_eq_of_maskR hm
    simp [decode, decodeGroup8, hd, hn, encode, Instr.row]
  | skp | sknp =>
    obtain ⟨hd, hnn⟩ := fields_eq_of_maskK hm
    simp [decode, decodeGroupE, hd, hnn, encode, Instr.row]
  | ldFromDelay | ldKey | ldDelay | ldSound | addIndex | ldFont =>
    obtain ⟨hd, hnn⟩ := fields_eq_of_maskK hm
    simp [decode, decodeGroupF, hd, hnn, encode, Instr.row]

/-- The instruction a word decodes to has a row that the word matches. -/
theorem selectsRow_of_decode {op : Word} {i : Instr} (h : decode op = .instr i) :
    SelectsRow op i := by
  obtain ⟨-, rfl⟩ := encodeOfDecode op i h
  exact encode_selectsRow i

/-- Settles O13: the rows a word matches are all the row of what it decodes to. -/
theorem decodeSelectsTheMatchingRow : Obligations.DecodeSelectsTheMatchingRow := by
  refine fun op => ⟨fun i j hi hj => ?_, fun i => selectsRow_of_decode, ?_, fun hnone => ?_⟩
  · obtain ⟨k, hk, hki⟩ := decode_of_selectsRow hi
    obtain ⟨l, hl, hlj⟩ := decode_of_selectsRow hj
    obtain rfl : k = l := Decoded.instr.inj (hk.symm.trans hl)
    exact hki.symm.trans hlj
  · rintro ⟨g, hg⟩ i hi
    obtain ⟨j, hj, -⟩ := decode_of_selectsRow hi
    exact Decoded.noConfusion (hg.symm.trans hj)
  · cases hdec : decode op with
    | illegal g => exact ⟨g, rfl⟩
    | instr i => exact absurd (selectsRow_of_decode hdec) (hnone i)

/-! ### The list of R76 -/

/-- No word of an instruction is listed. -/
theorem not_listedIllegal_encode (i : Instr) : ¬ ListedIllegal (encode i) := by
  unfold ListedIllegal
  cases i with
  | nop | cls | ret => decide
  | jp | call | ldIndex | jpV0 | seImm | sneImm | ldImm | addImm | rnd => simp [encode]
  | seReg | sneReg | ldReg | orReg | andReg | xorReg | addReg | subReg | shr | subnReg | shl
  | drw => simp [encode]
  | skp | sknp | ldFromDelay | ldKey | ldDelay | ldSound | addIndex | ldFont => simp [encode]

/-- Settles O14: a rejected word is listed, and a word that is not rejected is an instruction's own. -/
theorem illegalOpcodesAreThoseListed : Obligations.IllegalOpcodesAreThoseListed := by
  intro op
  have haccounted := decode_accounted op
  cases hdec : decode op with
  | illegal g =>
    rw [hdec] at haccounted
    exact ⟨fun _ => haccounted, fun _ => ⟨g, rfl⟩⟩
  | instr i =>
    obtain ⟨-, rfl⟩ := encodeOfDecode op i hdec
    exact ⟨fun ⟨_, h⟩ => Decoded.noConfusion h, fun h => absurd h (not_listedIllegal_encode i)⟩

end Sys2Proof.Machine

/-!
PROOFS. The statements of spec/40_cycle_engine.md. `applyOp_host_eq` says once what an operation of the
host other than `tick` and `reset` can write, and `runOps_ticks_doReset` is the run of an engine that is
reset and ticked without a ROM, in closed form.
-/
namespace Sys2Proof.Machine

/-! ### Frames -/

theorem Piece.same_refl (p : Piece) (s : State) : p.same s s := by
  cases p with
  | memory => exact fun _ => rfl
  | framebuffer => exact fun _ _ => rfl
  | latch => exact ⟨rfl, rfl, rfl, rfl⟩
  | pc | index | stackEntries | stackPointer | keys | delayTimer | soundTimer | font | draws => rfl

theorem frameExcept_refl (s : State) : FrameExcept [] [] s s :=
  ⟨fun _ _ => rfl, fun p _ => p.same_refl s⟩

/-- A state and the same state with another pc differ in pc alone. -/
theorem frameExcept_setPc (s : State) (w : Word) : FrameExcept [] [.pc] s (s.setPc w) := by
  refine ⟨fun _ _ => rfl, fun p hp => ?_⟩
  cases p with
  | pc => exact absurd List.mem_cons_self hp
  | memory => exact fun _ => rfl
  | framebuffer => exact fun _ _ => rfl
  | latch => exact ⟨rfl, rfl, rfl, rfl⟩
  | index | stackEntries | stackPointer | keys | delayTimer | soundTimer | font | draws => rfl

/-! ### What the host writes between ticks -/

/-- `s` with other bytes of memory, keys and timers: the pieces the host's operations reach (R96). -/
def State.withHostPieces (s : State) (m : Memory) (k : Vector Bool 16) (d e : Byte) : State :=
  (((s.setMem m).setKeys k).setDt d).setSt e

theorem frameExcept_withHostPieces (s : State) (m : Memory) (k : Vector Bool 16) (d e : Byte) :
    FrameExcept [] [.delayTimer, .soundTimer, .keys, .memory] s (s.withHostPieces m k d e) := by
  refine ⟨fun _ _ => rfl, fun p hp => ?_⟩
  cases p with
  | delayTimer | soundTimer | keys | memory => simp at hp
  | framebuffer => exact fun _ _ => rfl
  | latch => exact ⟨rfl, rfl, rfl, rfl⟩
  | pc | index | stackEntries | stackPointer | font | draws => rfl

/-- An operation other than `tick` and `reset` writes memory, the keys and the timers at most (R96). -/
theorem applyOp_host_eq {op : HostOp} (s : State) (htick : op ≠ .tick) (hreset : op ≠ .reset) :
    ∃ m k d e, (applyOp op s).1 = s.withHostPieces m k d e := by
  cases op with
  | tick => exact absurd rfl htick
  | reset => exact absurd rfl hreset
  | tickTimers => exact ⟨s.mem, s.keys, decrement s.dt, decrement s.st, rfl⟩
  | getDisplay => exact ⟨s.mem, s.keys, s.dt, s.st, rfl⟩
  | keyPress j p =>
    simp only [applyOp, keyPress]
    split
    · exact ⟨s.mem, s.keys.set j p, s.dt, s.st, rfl⟩
    · exact ⟨s.mem, s.keys, s.dt, s.st, rfl⟩
  | loadRom bytes =>
    obtain h | h := applyOp_loadRom_cases bytes s <;> rw [h]
    · exact ⟨s.mem, s.keys, s.dt, s.st, rfl⟩
    · obtain ⟨m, hm⟩ := State.memWriteAll_eq bytes s Config.romBase
      exact ⟨m, s.keys, s.dt, s.st, hm⟩

/-- Settles O46: what the host's operations write is framed, and the pc of reset is a constant. -/
theorem hostOperationsNeverMovePc : Obligations.HostOperationsNeverMovePc := by
  refine ⟨fun op s htick hreset => ?_, fun s => rfl⟩
  obtain ⟨m, k, d, e, h⟩ := applyOp_host_eq s htick hreset
  rw [h]
  exact frameExcept_withHostPieces s m k d e

/-- No operation but `reset` clears `halted` (R95). -/
theorem applyOp_halted {op : HostOp} {s : State} (hs : s.halted = true) (hreset : op ≠ .reset) :
    (applyOp op s).1.halted = true := by
  by_cases htick : op = .tick
  · subst htick
    exact (congrArg (·.1.halted) (tick_of_halted hs)).trans hs
  · obtain ⟨m, k, d, e, h⟩ := applyOp_host_eq s htick hreset
    exact (congrArg State.halted h).trans hs

/-- Settles O5: the halted cases of the step and the tick, and what the operations do to `halted`. -/
theorem haltedTickChangesNothing : Obligations.HaltedTickChangesNothing :=
  fun _ hs => ⟨step_of_halted hs, tick_of_halted hs, fun _ => applyOp_halted hs, rfl⟩

/-! ### Fetch and NOP -/

/-- A read answers the byte of an address that exists (R53). -/
theorem State.memRead_eq_some_iff {s : State} {a : Nat} {b : Byte} :
    s.memRead a = some b ↔ a ≤ 0xFFF ∧ s.byteAt a = b := by
  unfold State.memRead
  split
  · next h => exact ⟨(nomatch ·), fun hb => absurd hb.1 (Nat.not_le.2 h)⟩
  · next h => exact ⟨fun hb => ⟨Nat.not_lt.1 h, Option.some.inj hb⟩, fun hb => congrArg some hb.2⟩

/-- The two bytes at pc, high byte first, are the opcode the fetch stage reads (R55, R91). -/
theorem State.fetch_of_memRead {s : State} {hi lo : Byte} (hhi : s.memRead s.pc.toNat = some hi)
    (hlo : s.memRead (s.pc.toNat + 1) = some lo) : s.fetch = some (opcodeOf hi lo) := by
  obtain ⟨-, rfl⟩ := State.memRead_eq_some_iff.1 hhi
  obtain ⟨hle, rfl⟩ := State.memRead_eq_some_iff.1 hlo
  obtain ⟨-, hf⟩ | ⟨hge, -⟩ := s.fetch_cases
  · exact hf
  · omega

/-- Settles O2: the bytes at pc are what the fetch stage reads, and they decode to `i`. -/
theorem tickRunsTheDecodedInstruction : Obligations.TickRunsTheDecodedInstruction :=
  fun _ _ _ _ hrun hhi hlo hd => step_of_instr hrun (State.fetch_of_memRead hhi hlo) hd

/-- Settles O16: the next state is the state itself. -/
theorem nopChangesNothing : Obligations.NopChangesNothing :=
  fun s => ⟨s, rfl, frameExcept_refl s⟩

/-- A tick that fetches the word of NOP advances pc, and that is all (R94). -/
theorem tick_of_fetch_nop {s : State} (hs : Running s) (hf : s.fetch = some (encode .nop)) :
    (tick s).1 = s.advance :=
  congrArg Prod.fst (tick_of_next (step_of_instr hs hf (decode_encode rfl)))

/-- A tick that fetches outside memory enters the fault of R190, with pc unchanged. -/
theorem tick_of_fetch_none {s : State} (hs : Running s) (hf : s.fetch = none) :
    FaultEntered .memoryOutOfRange s.pc 0x0000#16 s (tick s).1 := by
  rw [tick_of_next (step_of_fetch_none hs hf)]
  exact s.raise_faultEntered _ _ _

/-! ### An engine without a ROM -/

theorem runOps_append (ops ops' : List HostOp) (s : State) :
    runOps (ops ++ ops') s = runOps ops' (runOps ops s) := by
  induction ops generalizing s with
  | nil => rfl
  | cons op ops ih => exact ih _

/-- The last of `k + 1` ticks runs on what the first `k` leave. -/
theorem runOps_ticks_succ (k : Nat) (s : State) :
    runOps (List.replicate (k + 1) .tick) s = (tick (runOps (List.replicate k .tick) s)).1 := by
  rw [List.replicate_succ', runOps_append]
  rfl

/-- After a reset every word above the font is that of NOP (R39, R94). -/
theorem fetch_setPc_doReset (s : State) {w : Word} (hlow : 80 ≤ w.toNat) (hhigh : w.toNat ≤ 0xFFE) :
    (s.doReset.setPc w).fetch = some (encode .nop) := by
  obtain ⟨-, hzero, -⟩ := resetLeavesTheStatedValues s _ rfl
  exact State.fetch_of_memRead (s := s.doReset.setPc w) (hzero w.toNat hlow (by omega))
    (hzero (w.toNat + 1) (by omega) (by omega))

/-- Where pc stands after `k` NOPs from 0x200, as a word. -/
def pcAfterNops (k : Nat) : Word := BitVec.ofNat 16 (0x200 + 2 * k)

theorem pcAfterNops_toNat {k : Nat} (hk : k ≤ 1792) : (pcAfterNops k).toNat = 0x200 + 2 * k := by
  rw [pcAfterNops, BitVec.toNat_ofNat]
  omega

theorem pcAfterNops_succ (k : Nat) : pcAfterNops (k + 1) = pcAfterNops k + 2 :=
  BitVec.ofNat_add (n := 16) (0x200 + 2 * k) 2

/-- As long as pc stays within memory, `k` ticks after a reset are `k` NOPs (R94, R228). -/
theorem runOps_ticks_doReset (s : State) {k : Nat} (hk : k ≤ 1792) :
    runOps (List.replicate k .tick) s.doReset = s.doReset.setPc (pcAfterNops k) := by
  induction k with
  | zero => rfl
  | succ k ih =>
    have hpc := pcAfterNops_toNat (k := k) (by omega)
    have hf := fetch_setPc_doReset s (w := pcAfterNops k) (by omega) (by omega)
    calc runOps (List.replicate (k + 1) .tick) s.doReset
        = (tick (s.doReset.setPc (pcAfterNops k))).1 := by rw [runOps_ticks_succ, ih (by omega)]
      _ = (s.doReset.setPc (pcAfterNops k)).advance := tick_of_fetch_nop rfl hf
      _ = s.doReset.setPc (pcAfterNops (k + 1)) := by rw [pcAfterNops_succ]; rfl

/-- Settles O17: 1792 NOPs bring pc to 0x1000, where the fetch has no byte to read. -/
theorem unloadedMemoryRunsAsNops : Obligations.UnloadedMemoryRunsAsNops := by
  refine fun s => ⟨fun k hk => ?_, ?_⟩
  · rw [runOps_ticks_doReset s hk]
    exact ⟨frameExcept_setPc _ _, pcAfterNops_toNat hk⟩
  · have hrun : runOps (List.replicate 1793 .tick) s.doReset
        = (tick (s.doReset.setPc 0x1000#16)).1 := by
      rw [runOps_ticks_succ 1792, runOps_ticks_doReset s le_rfl]
      rfl
    rw [hrun]
    exact tick_of_fetch_none (s := s.doReset.setPc 0x1000#16) rfl rfl

end Sys2Proof.Machine

/-!
PROOFS. The statements of spec/41_flow.md. `BalancedRun.sameStackInUse` is the invariant of a balanced
stretch, that the stack entries in use stay as they are, and `ret_returns_to_call` its one step: what a
CALL and the RET that ends such a stretch leave together.
-/
namespace Sys2Proof.Machine

/-! ### Frames of the return stack -/

/-- A state and the same state with another return stack and pc differ in these alone. -/
theorem frameExcept_setStack_setSp_setPc (s : State) (k : Vector Word 16) (p : Fin 17) (w : Word) :
    FrameExcept [] [.pc, .stackPointer, .stackEntries] s (((s.setStack k).setSp p).setPc w) := by
  refine ⟨fun _ _ => rfl, fun q hq => ?_⟩
  cases q with
  | pc | stackPointer | stackEntries => simp at hq
  | memory => exact fun _ => rfl
  | framebuffer => exact fun _ _ => rfl
  | latch => exact ⟨rfl, rfl, rfl, rfl⟩
  | index | keys | delayTimer | soundTimer | font | draws => rfl

/-- A piece that is the same need not be excepted. -/
theorem FrameExcept.of_same {regs : List Reg} {pieces : List Piece} {q : Piece} {s t : State}
    (h : FrameExcept regs (pieces ++ [q]) s t) (hq : q.same s t) : FrameExcept regs pieces s t := by
  refine ⟨h.1, fun p hp => ?_⟩
  by_cases hpq : p = q
  · exact hpq ▸ hq
  · exact h.2 p (by simp [hp, hpq])

/-! ### Control flow -/

/-- Settles O20: both jumps are one write of pc, and neither target wraps. -/
theorem jumpsGoToTheirTargets : Obligations.JumpsGoToTheirTargets :=
  ⟨fun nnn s => ⟨_, rfl, addrOperand_toNat nnn, frameExcept_setPc s _⟩,
    fun nnn s => ⟨_, rfl, indexedTarget_toNat s nnn, frameExcept_setPc s _⟩⟩

/-- Settles O18, by the two cases of RET. -/
theorem retPopsTheReturnAddress : Obligations.RetPopsTheReturnAddress := by
  refine ⟨fun s k hk => ?_, fun s h0 => ?_⟩
  · have htop : s.sp.val - 1 = k.val := by omega
    exact ⟨_, execRet_of_pos (by omega), by simp [htop], htop,
      (frameExcept_setStack_setSp_setPc s s.stack _ _).of_same (q := .stackEntries) rfl⟩
  · obtain ⟨t, ht, hfault⟩ := raiseInExecute_gives .stackUnderflow .ret s
    exact ⟨t, (execRet_of_empty h0).trans ht, hfault⟩

/-- Settles O19, by the two cases of CALL. -/
theorem callPushesAndJumps : Obligations.CallPushesAndJumps := by
  refine ⟨fun nnn s k hk => ?_, fun nnn s hfull => ?_⟩
  · refine ⟨_, execCall_of_lt nnn (by omega), addrOperand_toNat nnn, rfl, by simp [hk],
      fun j hj => ?_, frameExcept_setStack_setSp_setPc s _ _ _⟩
    have hne : s.sp.val ≠ j.val := fun e => hj (Fin.ext (hk.trans e).symm)
    simp [Vector.getElem_set_ne _ _ hne]
  · obtain ⟨t, ht, hfault⟩ := raiseInExecute_gives .stackOverflow (.call nnn) s
    exact ⟨t, (execCall_of_full nnn hfull).trans ht, hfault⟩

/-! ### A step whose instruction is known -/

/-- The step of a running engine executes the instruction at pc on the advanced state (R93). -/
theorem step_of_instrAt {s : State} {i : Instr} (hs : Running s) (hi : instrAt s = some i) :
    step s = exec i s.advance := by
  cases hf : s.fetch with
  | none => simp [instrAt, hf] at hi
  | some op =>
    cases hd : decode op with
    | illegal g => simp [instrAt, hf, hd] at hi
    | instr j =>
      obtain rfl : j = i := by simpa [instrAt, hf, hd] using hi
      exact step_of_instr hs hf hd

/-- What the instruction at pc gives holds of the next state. -/
theorem Gives.of_step {s t : State} {i : Instr} {P : State → Prop} (hg : Gives i s.advance P)
    (hi : instrAt s = some i) (h : step s = .next t) : P t := by
  obtain ⟨t', hexec, hP⟩ := hg
  rw [step_of_instrAt (running_of_step_next h) hi, hexec] at h
  cases h
  exact hP

/-! ### The stack along a balanced stretch (R100) -/

/-- The entries in use are the same in both states, and as many. -/
def SameStackInUse (s t : State) : Prop :=
  t.sp = s.sp ∧ ∀ j : Fin 16, j.val < s.sp.val → t.stack[j.val] = s.stack[j.val]

theorem SameStackInUse.of_eq {s t : State} (hsp : t.sp = s.sp) (hstack : t.stack = s.stack) :
    SameStackInUse s t :=
  ⟨hsp, fun j _ => by rw [hstack]⟩

theorem SameStackInUse.trans {s t u : State} (h : SameStackInUse s t) (h' : SameStackInUse t u) :
    SameStackInUse s u := by
  obtain ⟨hsp, hstack⟩ := h
  obtain ⟨hsp', hstack'⟩ := h'
  exact ⟨hsp'.trans hsp, fun j hj => (hstack' j (hsp ▸ hj)).trans (hstack j hj)⟩

/-- A tick of an instruction other than CALL and RET leaves the stack alone. -/
theorem sameStackInUse_of_step {s t : State} {i : Instr} (hi : instrAt s = some i) (hret : i ≠ .ret)
    (hcall : ∀ nnn, i ≠ .call nnn) (h : step s = .next t) : SameStackInUse s t := by
  obtain ⟨s', hsp, hexec⟩ := exec_offStack hret hcall s.advance
  exact Gives.of_step ⟨s'.setStack s.stack, hexec s.stack, .of_eq hsp rfl⟩ hi h

/-- So does an operation of the host other than `tick` and `reset`. -/
theorem sameStackInUse_applyOp {op : HostOp} (s : State) (htick : op ≠ .tick)
    (hreset : op ≠ .reset) : SameStackInUse s (applyOp op s).1 := by
  obtain ⟨m, k, d, e, h⟩ := applyOp_host_eq s htick hreset
  rw [h]
  exact .of_eq rfl rfl

/-- A CALL that did not fault had a free entry (R102). -/
theorem sp_lt_of_call {s t : State} {nnn : Addr12} (hi : instrAt s = some (.call nnn))
    (h : step s = .next t) (ht : Running t) : s.sp.val < 16 := by
  by_contra hge
  have hfull : s.sp.val = 16 := Nat.le_antisymm s.sp.is_le (Nat.not_lt.1 hge)
  obtain ⟨hhalted, -⟩ := Gives.of_step (callPushesAndJumps.2 nnn s.advance hfull) hi h
  exact Bool.false_ne_true (ht.symm.trans hhalted)

/-- After a CALL, and whatever keeps the entries then in use, RET goes on after the CALL, and the
entries in use are those of before it. -/
theorem ret_returns_to_call {s t u v : State} {nnn : Addr12} (hcall : instrAt s = some (.call nnn))
    (hst : step s = .next t) (ht : Running t) (htu : SameStackInUse t u)
    (hret : instrAt u = some .ret) (huv : step u = .next v) :
    Running v ∧ v.pc = s.pc + 2 ∧ SameStackInUse s v := by
  obtain ⟨top, htop⟩ : ∃ top : Fin 16, top.val = s.sp.val :=
    ⟨⟨s.sp.val, sp_lt_of_call hcall hst ht⟩, rfl⟩
  obtain ⟨husp, hustack⟩ := htu
  obtain ⟨-, htsp, hpushed, hbelow, -⟩ :=
    Gives.of_step (callPushesAndJumps.1 nnn s.advance top htop) hcall hst
  replace htsp : t.sp.val = top.val + 1 := htsp.trans (congrArg (· + 1) htop.symm)
  obtain ⟨hpc, hvsp, -, hframe⟩ :=
    Gives.of_step (retPopsTheReturnAddress.1 u.advance top (husp ▸ htsp).symm) hret huv
  obtain ⟨hhalted, -⟩ : Piece.latch.same u.advance v := hframe .latch (by decide)
  have hvstack : v.stack = u.stack := hframe .stackEntries (by decide)
  refine ⟨hhalted.trans (running_of_step_next huv : Running u), ?_, Fin.ext (hvsp.trans htop),
    fun j hj => ?_⟩
  · calc v.pc = u.stack[top.val] := hpc
      _ = t.stack[top.val] := hustack top (by omega)
      _ = s.pc + 2 := hpushed
  · calc v.stack[j.val] = u.stack[j.val] := by rw [hvstack]
      _ = t.stack[j.val] := hustack j (by omega)
      _ = s.stack[j.val] := hbelow j (Fin.ne_of_lt (htop ▸ hj : j.val < top.val))

/-- A balanced stretch keeps the entries in use. -/
theorem BalancedRun.sameStackInUse {s u : State} (h : BalancedRun s u) : SameStackInUse s u := by
  induction h with
  | stop s => exact .of_eq rfl rfl
  | plain _ hi hret hcall hst _ _ ih => exact (sameStackInUse_of_step hi hret hcall hst).trans ih
  | host htick hreset _ ih => exact (sameStackInUse_applyOp _ htick hreset).trans ih
  | pair _ hcall hst ht _ hret huv _ _ ihinner ihrest =>
    obtain ⟨-, -, hpair⟩ := ret_returns_to_call hcall hst ht ihinner hret huv
    exact hpair.trans ihrest

/-- Settles O21: the balanced stretch keeps the entry that the CALL pushed on top. -/
theorem stackIsLifo : Obligations.StackIsLifo := by
  intro s t u v nnn _ hcall hst ht hbal hret huv
  obtain ⟨hrun, hpc, hsp, -⟩ := ret_returns_to_call hcall hst ht hbal.sameStackInUse hret huv
  exact ⟨hrun, hpc, hsp⟩

end Sys2Proof.Machine

/-!
PROOFS. The statements of spec/42_skip.md. `exec_of_takenSkip` says once what the six skips do when
their condition holds, and `State.fetch_memWriteAll_beyond` why the skipped bytes do not matter: the
tick fetches below them.
-/
namespace Sys2Proof.Machine

/-! ### The taken skip (R114) -/

/-- Whether a skip is taken depends on the registers and the keys alone. -/
theorem TakenSkip.congr {i : Instr} {s t : State} (hv : ∀ x, t.getV x = s.getV x)
    (hk : t.keys = s.keys) (h : TakenSkip i s) : TakenSkip i t := by
  cases i with
  | seImm | sneImm | seReg | sneReg | skp | sknp => simpa only [TakenSkip, hv, hk] using h
  | _ => exact h

theorem next_skipIf_of_true (s : State) {c : Bool} (hc : c = true) :
    (.next (s.skipIf c) : Outcome) = .next (s.skipIf true) := by
  rw [hc]

/-- A skip whose condition holds moves pc by 2 and faults nowhere: the key index that a key skip
tests is at most 15. -/
theorem exec_of_takenSkip {i : Instr} {s : State} (h : TakenSkip i s) :
    exec i s = .next (s.skipIf true) := by
  cases i with
  | seImm | seReg => exact next_skipIf_of_true s (beq_iff_eq.2 h)
  | sneImm | sneReg => exact next_skipIf_of_true s (bne_iff_ne.2 h)
  | skp x =>
    obtain ⟨k, hk, hpressed⟩ := h
    exact (execSkp_of_lt (hk ▸ k.isLt)).trans (by simp only [← hk, hpressed])
  | sknp x =>
    obtain ⟨k, hk, hreleased⟩ := h
    exact (execSknp_of_lt (hk ▸ k.isLt)).trans (by simp only [← hk, hreleased, Bool.not_false])
  | _ => exact h.elim

/-- The tick of a taken skip is the move of pc to `a + 4`. -/
theorem step_of_takenSkip {s : State} {i : Instr} (hs : Running s) (hi : instrAt s = some i)
    (h : TakenSkip i s) : step s = .next (s.setPc (s.pc + 4)) :=
  calc step s
      = exec i s.advance := step_of_instrAt hs hi
    _ = .next (s.advance.skipIf true) := exec_of_takenSkip (h.congr (fun _ => rfl) rfl)
    _ = .next (s.setPc (s.pc + 4)) := congrArg Host.Outcome.next (s.skipIf_advance true)

/-! ### The skipped bytes -/

/-- The instruction at pc is a function of the fetched opcode. -/
theorem instrAt_congr {s t : State} (h : t.fetch = s.fetch) : instrAt t = instrAt s := by
  simp only [instrAt, h]

/-- Bytes stored at `a + 2` and above are not in the word fetched at `a` (R91). -/
theorem State.fetch_memWriteAll_beyond {s : State} {a : Nat} (bytes : List Byte)
    (hs : Memory.wf s.font s.mem = true) (ha : s.pc.toNat + 2 ≤ a) :
    (s.memWriteAll a bytes).fetch = s.fetch := by
  have hpc : (s.memWriteAll a bytes).pc = s.pc := by
    obtain ⟨m, hm⟩ := s.memWriteAll_eq bytes a
    rw [hm, State.setMem_pc]
  have hhi := s.memWriteAll_byteAt_outside bytes hs (a := a) (a' := s.pc.toNat) (.inl (by omega))
  have hlo := s.memWriteAll_byteAt_outside bytes hs (a := a) (a' := s.pc.toNat + 1) (.inl (by omega))
  simp only [State.fetch, State.fetchAt, hpc, hhi, hlo]

/-- Settles O24: the step of a taken skip, and the bytes stored beyond the fetched word leave the
instruction and its condition as they are. -/
theorem skippedWordIsNotDecoded : Obligations.SkippedWordIsNotDecoded := by
  refine ⟨fun s i => step_of_takenSkip, fun s i hi lo hrun hinstr htaken hwf _ => ?_⟩
  have hinstr' := (instrAt_congr (s.fetch_memWriteAll_beyond [hi, lo] hwf le_rfl)).trans hinstr
  obtain ⟨m, hm⟩ := s.memWriteAll_eq [hi, lo] (s.pc.toNat + 2)
  rw [hm] at hinstr' ⊢
  exact step_of_takenSkip hrun hinstr' (htaken.congr (fun _ => rfl) rfl)

/-! ### Both sides of the condition (R110 to R113) -/

/-- A skip moves pc by 2 where `p` makes its test true, leaves it where `q` makes the test false, and
changes nothing else. -/
theorem State.skipIf_moves_pc {p q : Prop} {c : Bool} (s : State) (hp : p → c = true)
    (hq : q → c = false) :
    (p → (s.skipIf c).pc = s.pc + 2) ∧ (q → (s.skipIf c).pc = s.pc) ∧
      FrameExcept [] [.pc] s (s.skipIf c) := by
  rw [State.skipIf_eq]
  exact ⟨fun h => if_pos (hp h), fun h => if_neg (Bool.eq_false_iff.1 (hq h)), frameExcept_setPc s _⟩

/-- Settles O23: each of the four is one skip, and its test is true on one side and false on the
other. -/
theorem compareSkips : Obligations.CompareSkips :=
  ⟨fun _ _ s => ⟨_, rfl, s.skipIf_moves_pc beq_iff_eq.2 beq_eq_false_iff_ne.2⟩,
    fun _ _ s => ⟨_, rfl, s.skipIf_moves_pc bne_iff_ne.2 bne_eq_false_iff_eq.2⟩,
    fun _ _ s => ⟨_, rfl, s.skipIf_moves_pc beq_iff_eq.2 beq_eq_false_iff_ne.2⟩,
    fun _ _ s => ⟨_, rfl, s.skipIf_moves_pc bne_iff_ne.2 bne_eq_false_iff_eq.2⟩⟩

end Sys2Proof.Machine

/-!
PROOFS. The statements of spec/43_alu.md. `FrameExcept.setV` is the frame of a register write, and
`State.writeWithFlag_meets` says once what the five flag-writing instructions have in common, so
that each of them is its result and its flag as numbers.
-/
namespace Sys2Proof.Machine

/-! ### Frames of the registers -/

/-- A register write touches no other piece of state. -/
theorem Piece.same_setV {p : Piece} {s t : State} (x : Reg) (b : Byte) (h : p.same s t) :
    p.same s (t.setV x b) := by
  cases p <;> exact h

/-- A write of an excepted register keeps a frame. -/
theorem FrameExcept.setV {regs : List Reg} {pieces : List Piece} {s t : State} {x : Reg} (b : Byte)
    (h : FrameExcept regs pieces s t) (hx : x ∈ regs) : FrameExcept regs pieces s (t.setV x b) :=
  ⟨fun r hr => (t.getV_setV_ne b fun e : r = x => hr (e ▸ hx)).trans (h.1 r hr),
    fun p hp => Piece.same_setV x b (h.2 p hp)⟩

/-- Nothing differs between a state and itself, so anything may be excepted. -/
theorem frameExcept_self (regs : List Reg) (pieces : List Piece) (s : State) :
    FrameExcept regs pieces s s :=
  ⟨fun _ _ => rfl, fun p _ => p.same_refl s⟩

theorem frameExcept_setV (s : State) (x : Reg) (b : Byte) : FrameExcept [x] [] s (s.setV x b) :=
  (frameExcept_self _ _ s).setV b (by simp)

theorem frameExcept_writeWithFlag (s : State) (x : Reg) (b : Byte) (f : Bool) :
    FrameExcept [x, regF] [] s (s.writeWithFlag x b f) :=
  ((frameExcept_self _ _ s).setV b (by simp)).setV (flagByte f) (by simp)

/-! ### Writes without a flag (R120 to R125) -/

/-- A register write leaves its byte in the register, and nothing else differs. -/
theorem State.setV_writes (s : State) (x : Reg) (b : Byte) :
    (s.setV x b).getV x = b ∧ FrameExcept [x] [] s (s.setV x b) :=
  ⟨s.getV_setV_same x b, frameExcept_setV s x b⟩

/-- Settles O25: each of the five is one register write. -/
theorem loadsAndLogicWriteOneRegister : Obligations.LoadsAndLogicWriteOneRegister :=
  ⟨fun x nn s => ⟨_, rfl, s.setV_writes x nn⟩,
    fun x _ s => ⟨_, rfl, s.setV_writes x _⟩,
    fun x _ s => ⟨_, rfl, s.setV_writes x _⟩,
    fun x _ s => ⟨_, rfl, s.setV_writes x _⟩,
    fun x _ s => ⟨_, rfl, s.setV_writes x _⟩⟩

/-- Settles O26: one register write, of a sum of bytes. -/
theorem addImmediateWrapsWithoutFlag : Obligations.AddImmediateWrapsWithoutFlag := by
  intro x nn s
  obtain ⟨hsum, hframe⟩ := s.setV_writes x (s.getV x + nn)
  exact ⟨_, rfl, by rw [hsum, BitVec.toNat_add], hframe⟩

/-! ### The flags as numbers (R23, R131) -/

theorem flagByte_toNat (b : Bool) : (flagByte b).toNat = b.toNat := by
  cases b <;> rfl

theorem flagByte_decide (p : Prop) [Decidable p] :
    (flagByte (decide p)).toNat = if p then 1 else 0 := by
  rw [flagByte_toNat]
  split <;> simp [*]

/-- A bit of a byte as a flag is a binary digit of its value. -/
theorem flagByte_getLsbD (p : Byte) (k : Nat) :
    (flagByte (p.getLsbD k)).toNat = p.toNat / 2 ^ k % 2 :=
  (flagByte_toNat _).trans (Nat.toNat_testBit _ _)

/-- Bit 7 is all that a byte has above 127. -/
theorem flagByte_highBitFlag (p : Byte) : (flagByte (highBitFlag p)).toNat = p.toNat / 128 := by
  have hp : p.toNat < 256 := p.isLt
  exact (flagByte_getLsbD p 7).trans (Nat.mod_eq_of_lt (by omega))

theorem flagByte_lowBitFlag (p : Byte) : (flagByte (lowBitFlag p)).toNat = p.toNat % 2 :=
  (flagByte_getLsbD p 0).trans (by rw [pow_zero, Nat.div_one])

/-! ### Writes with a flag (R126 to R132) -/

/-- What a flag-writing instruction leaves, whatever it computes: its result in a destination other
than VF, its flag in VF, and everything else as before (R132). -/
theorem State.writeWithFlag_meets (s : State) (x : Reg) {b : Byte} {f : Bool} {n : Nat}
    (P : Byte → Prop) (hb : P b) (hf : (flagByte f).toNat = n) :
    (x ≠ regF → P ((s.writeWithFlag x b f).getV x)) ∧
      ((s.writeWithFlag x b f).getV regF).toNat = n ∧
      FrameExcept [x, regF] [] s (s.writeWithFlag x b f) :=
  ⟨fun hx => by rwa [s.writeWithFlag_result b f hx], by rw [s.writeWithFlag_flag, hf],
    frameExcept_writeWithFlag s x b f⟩

/-- Settles O27: the sum of bytes wraps, and the carry is its test. -/
theorem addSetsTheCarry : Obligations.AddSetsTheCarry := fun x y s =>
  ⟨_, rfl, s.writeWithFlag_meets x (·.toNat = ((s.getV x).toNat + (s.getV y).toNat) % 256)
    (BitVec.toNat_add _ _) (flagByte_decide _)⟩

/-- The difference of bytes is that of the integers modulo 256. -/
theorem sub_toNat_int (p q : Byte) : ((p - q).toNat : Int) = (p.toNat - q.toNat : Int) % 256 := by
  have hq : q.toNat < 256 := q.isLt
  rw [BitVec.toNat_sub]
  omega

/-- Both subtractions: SUBN is SUB with the operands exchanged (R127, R129). -/
theorem State.writeWithFlag_sub (s : State) (x : Reg) (p q : Byte) :
    let t := s.writeWithFlag x (p - q) (notBorrowFlag p q)
    (x ≠ regF → ((t.getV x).toNat : Int) = (p.toNat - q.toNat : Int) % 256) ∧
      (t.getV regF).toNat = (if p.toNat ≥ q.toNat then 1 else 0) ∧ FrameExcept [x, regF] [] s t :=
  s.writeWithFlag_meets x (fun r => (r.toNat : Int) = (p.toNat - q.toNat : Int) % 256)
    (sub_toNat_int p q) (flagByte_decide _)

/-- Settles O28: one subtraction, with the operands in both orders. -/
theorem subtractionsSetNotBorrow : Obligations.SubtractionsSetNotBorrow :=
  ⟨fun x y s => ⟨_, rfl, s.writeWithFlag_sub x (s.getV x) (s.getV y)⟩,
    fun x y s => ⟨_, rfl, s.writeWithFlag_sub x (s.getV y) (s.getV x)⟩⟩

/-- Settles O29: a shift by one halves or doubles the byte, and the flag is the digit that
leaves it. -/
theorem shiftsSetTheBitShiftedOut : Obligations.ShiftsSetTheBitShiftedOut := by
  refine ⟨fun x y s => ⟨_, rfl, ?_⟩, fun x y s => ⟨_, rfl, ?_⟩⟩
  · have hhalf : (s.getV x >>> 1).toNat = (s.getV x).toNat / 2 := by
      rw [BitVec.toNat_ushiftRight, Nat.shiftRight_one]
    exact s.writeWithFlag_meets x (·.toNat = (s.getV x).toNat / 2) hhalf (flagByte_lowBitFlag _)
  · have hdouble : (s.getV x <<< 1).toNat = (s.getV x).toNat * 2 % 256 := by
      rw [BitVec.toNat_shiftLeft, Nat.shiftLeft_eq, pow_one]
    exact s.writeWithFlag_meets x (·.toNat = (s.getV x).toNat * 2 % 256) hdouble
      (flagByte_highBitFlag _)

end Sys2Proof.Machine

/-!
PROOFS. The statements of spec/44_index_random.md. `exec_gives_index` goes once through the
instructions and says that all but three answer a next state with the same I; `and_and_not`
and `and_eq_of_and_not` are what a mask does, for RND.
-/
namespace Sys2Proof.Machine

/-! ### Frames of I and of the draw counter -/

/-- A state and the same state with another I differ in I alone. -/
theorem frameExcept_setIndex (s : State) (w : Word) : FrameExcept [] [.index] s (s.setIndex w) := by
  refine ⟨fun _ _ => rfl, fun p hp => ?_⟩
  cases p with
  | index => exact absurd List.mem_cons_self hp
  | memory => exact fun _ => rfl
  | framebuffer => exact fun _ _ => rfl
  | latch => exact ⟨rfl, rfl, rfl, rfl⟩
  | pc | stackEntries | stackPointer | keys | delayTimer | soundTimer | font | draws => rfl

/-- One more draw keeps a frame that excepts the counter. -/
theorem FrameExcept.nextDraw {regs : List Reg} {pieces : List Piece} {s t : State}
    (h : FrameExcept regs pieces s t) (hd : .draws ∈ pieces) :
    FrameExcept regs pieces s t.nextDraw := by
  refine ⟨h.1, fun p hp => ?_⟩
  have hsame := h.2 p hp
  cases p with
  | draws => exact absurd hd hp
  | _ => exact hsame

/-! ### The writes of I (R140 to R142, R144) -/

/-- I + VX wraps at 16 bits (R141). -/
theorem add_zext16_toNat (w : Word) (b : Byte) :
    (w + zext16 b).toNat = (w.toNat + b.toNat) % 65536 := by
  rw [BitVec.toNat_add, zext16, BitVec.toNat_setWidth_of_le (by decide)]

/-- The glyph address of any byte fits I, so the product does not wrap (R142). -/
theorem glyphAddress_toNat (b : Byte) : (glyphAddress b).toNat = b.toNat * 5 := by
  have hb : b.toNat < 256 := b.isLt
  rw [glyphAddress, BitVec.toNat_mul, zext16, BitVec.toNat_setWidth_of_le (by decide)]
  exact Nat.mod_eq_of_lt (show b.toNat * 5 < 65536 by omega)

/-- Settles O31: each of the three is one write of I. -/
theorem indexInstructionsWriteI : Obligations.IndexInstructionsWriteI :=
  ⟨fun nnn s => ⟨_, rfl, addrOperand_toNat nnn, frameExcept_setIndex s _⟩,
    fun x s => ⟨_, rfl, add_zext16_toNat _ (s.getV x), frameExcept_setIndex s _⟩,
    fun x s => ⟨_, rfl, glyphAddress_toNat (s.getV x), frameExcept_setIndex s _⟩⟩

@[simp] theorem State.skipIf_index (s : State) (c : Bool) : (s.skipIf c).index = s.index := by
  rw [State.skipIf_eq, State.setPc_index]

/-- Every instruction but those three answers a next state, that of a fault included, with the same
I (R144). -/
theorem exec_gives_index {i : Instr} (s : State) (hld : ∀ nnn, i ≠ .ldIndex nnn)
    (hadd : ∀ x, i ≠ .addIndex x) (hfont : ∀ x, i ≠ .ldFont x) :
    Gives i s fun t => t.index = s.index := by
  cases i with
  | ldIndex nnn => exact absurd rfl (hld nnn)
  | addIndex x => exact absurd rfl (hadd x)
  | ldFont x => exact absurd rfl (hfont x)
  | ret =>
    by_cases h : s.sp.val = 0
    · exact ⟨_, execRet_of_empty h, rfl⟩
    · exact ⟨_, execRet_of_pos (Nat.pos_of_ne_zero h), rfl⟩
  | call nnn =>
    by_cases h : s.sp.val = 16
    · exact ⟨_, execCall_of_full nnn h, rfl⟩
    · exact ⟨_, execCall_of_lt nnn (by omega), rfl⟩
  | skp x =>
    by_cases h : (s.getV x).toNat < 16
    · exact ⟨_, execSkp_of_lt h, s.skipIf_index _⟩
    · exact ⟨_, execSkp_of_not_lt h, rfl⟩
  | sknp x =>
    by_cases h : (s.getV x).toNat < 16
    · exact ⟨_, execSknp_of_lt h, s.skipIf_index _⟩
    · exact ⟨_, execSknp_of_not_lt h, rfl⟩
  | drw x y n =>
    cases h : s.readBytes s.index.toNat n with
    | some bytes => exact ⟨_, execDrw_of_some x y h, rfl⟩
    | none => exact ⟨_, execDrw_of_none x y h, rfl⟩
  | ldKey x =>
    cases h : lowestPressed s.keys with
    | some key => exact ⟨_, execLdKey_of_some x h, rfl⟩
    | none => exact ⟨_, execLdKey_of_none x h, rfl⟩
  | seImm | sneImm | seReg | sneReg => exact ⟨_, rfl, s.skipIf_index _⟩
  | nop | cls | jp | jpV0 | ldDelay | ldSound | ldImm | addImm | ldReg | orReg | andReg | xorReg
  | addReg | subReg | shr | subnReg | shl | rnd | ldFromDelay => exact ⟨_, rfl, rfl⟩

/-- What an instruction gives holds of the next state it answers. -/
theorem Gives.of_exec {s t : State} {i : Instr} {P : State → Prop} (hg : Gives i s P)
    (h : exec i s = .next t) : P t := by
  obtain ⟨t', hexec, hP⟩ := hg
  rw [hexec] at h
  cases h
  exact hP

/-- Settles O32: the state that is answered is the one with the same I. -/
theorem nothingElseWritesI : Obligations.NothingElseWritesI :=
  fun _ s _ h hld hadd hfont => (exec_gives_index s hld hadd hfont).of_exec h

/-! ### The masked draw (R143) -/

/-- A masked value has no bit outside the mask. -/
theorem and_and_not {w : Nat} (v m : BitVec w) : v &&& m &&& ~~~m = 0 := by
  rw [BitVec.and_assoc, BitVec.and_not_self]
  exact BitVec.and_zero

/-- A value without a bit outside the mask is left as it is by the mask. -/
theorem and_eq_of_and_not {w : Nat} {v m : BitVec w} (h : v &&& ~~~m = 0) : v &&& m = v :=
  calc v &&& m = v &&& m ||| v &&& ~~~m := by rw [h]; exact BitVec.or_zero.symm
    _ = v := by rw [← BitVec.and_or_distrib_left, BitVec.or_not_self, BitVec.and_allOnes]

theorem rndWith_getV (r : Byte) (x : Reg) (nn : Byte) (s : State) :
    (rndWith r x nn s).getV x = r &&& nn :=
  s.getV_setV_same x (r &&& nn)

theorem frameExcept_rndWith (r : Byte) (x : Reg) (nn : Byte) (s : State) :
    FrameExcept [x] [.draws] s (rndWith r x nn s) :=
  ((frameExcept_self _ _ s).setV _ (by simp)).nextDraw (by simp)

/-- The result has no bit outside NN, whatever byte is drawn. -/
theorem rndWith_masked (r : Byte) (x : Reg) (nn : Byte) (s : State) :
    (rndWith r x nn s).getV x &&& ~~~nn = 0 := by
  rw [rndWith_getV, and_and_not]

/-- Settles O33: the result is masked, and a byte within the mask is the result of drawing that
byte. -/
theorem rndMasksAFreeDraw : Obligations.RndMasksAFreeDraw := by
  constructor
  · intro x nn s
    exact ⟨_, rfl, rndWith_getV _ x nn s, rndWith_masked _ x nn s, rfl, frameExcept_rndWith _ x nn s⟩
  · intro x nn v s
    constructor
    · intro h
      exact ⟨v, by rw [rndWith_getV, and_eq_of_and_not h]⟩
    · rintro ⟨r, rfl⟩
      exact rndWith_masked r x nn s

end Sys2Proof.Machine

/-!
PROOFS. The statements of spec/45_display.md. A draw is one fold over the pixels under the 1 bits of the
sprite (`drawRows_eq_foldl`); no pixel stands twice in that list (`nodup_spriteHits`), so each of them
is flipped once and tested as it was before the draw.
-/
namespace Sys2Proof.Machine

/-! ### CLS (R150) -/

/-- A write of an excepted framebuffer keeps a frame. -/
theorem FrameExcept.setFb {regs : List Reg} {pieces : List Piece} {s t : State} (f : Framebuffer)
    (h : FrameExcept regs pieces s t) (hf : .framebuffer ∈ pieces) :
    FrameExcept regs pieces s (t.setFb f) := by
  refine ⟨h.1, fun p hp => ?_⟩
  have hsame := h.2 p hp
  cases p with
  | framebuffer => exact absurd hf hp
  | _ => exact hsame

/-- Settles O34: the cleared framebuffer is all that is written. -/
theorem clsTurnsEveryPixelOff : Obligations.ClsTurnsEveryPixelOff :=
  fun s => ⟨_, rfl, Framebuffer.pixel_allOff, (frameExcept_self _ _ s).setFb _ (by simp)⟩

/-! ### Who writes the framebuffer (R154) -/

@[simp] theorem State.skipIf_fb (s : State) (c : Bool) : (s.skipIf c).fb = s.fb := by
  rw [State.skipIf_eq, State.setPc_fb]

/-- Every instruction but CLS and DRW answers a next state, that of a fault included, with the same
framebuffer. -/
theorem exec_gives_fb {i : Instr} (s : State) (hcls : i ≠ .cls) (hdrw : ∀ x y n, i ≠ .drw x y n) :
    Gives i s fun t => t.fb = s.fb := by
  cases i with
  | cls => exact absurd rfl hcls
  | drw x y n => exact absurd rfl (hdrw x y n)
  | ret =>
    by_cases h : s.sp.val = 0
    · exact ⟨_, execRet_of_empty h, rfl⟩
    · exact ⟨_, execRet_of_pos (Nat.pos_of_ne_zero h), rfl⟩
  | call nnn =>
    by_cases h : s.sp.val = 16
    · exact ⟨_, execCall_of_full nnn h, rfl⟩
    · exact ⟨_, execCall_of_lt nnn (by omega), rfl⟩
  | skp x =>
    by_cases h : (s.getV x).toNat < 16
    · exact ⟨_, execSkp_of_lt h, s.skipIf_fb _⟩
    · exact ⟨_, execSkp_of_not_lt h, rfl⟩
  | sknp x =>
    by_cases h : (s.getV x).toNat < 16
    · exact ⟨_, execSknp_of_lt h, s.skipIf_fb _⟩
    · exact ⟨_, execSknp_of_not_lt h, rfl⟩
  | ldKey x =>
    cases h : lowestPressed s.keys with
    | some key => exact ⟨_, execLdKey_of_some x h, rfl⟩
    | none => exact ⟨_, execLdKey_of_none x h, rfl⟩
  | seImm | sneImm | seReg | sneReg => exact ⟨_, rfl, s.skipIf_fb _⟩
  | nop | jp | jpV0 | ldIndex | addIndex | ldFont | ldDelay | ldSound | ldImm | addImm | ldReg
  | orReg | andReg | xorReg | addReg | subReg | shr | subnReg | shl | rnd | ldFromDelay =>
    exact ⟨_, rfl, rfl⟩

/-- Settles O37: the instructions one by one, and the pieces that the host's operations reach. -/
theorem onlyClsDrwAndResetWriteTheFramebuffer :
    Obligations.OnlyClsDrwAndResetWriteTheFramebuffer := by
  refine ⟨fun i s t h hcls hdrw => (exec_gives_fb s hcls hdrw).of_exec h,
    fun op s htick hreset => ?_⟩
  obtain ⟨m, k, d, e, h⟩ := applyOp_host_eq s htick hreset
  rw [h]
  rfl

/-! ### The pixels under a sprite (R151, R152) -/

/-- Flip one pixel and collide when it was on: what `drawPixel` does for a 1 bit. -/
def flipPixel (c : Framebuffer × Bool) (p : Fin 64 × Fin 32) : Framebuffer × Bool :=
  (c.1.toggle p.1 p.2, c.2 || c.1.pixel p.1 p.2)

/-- The pixels under the 1 bits of a sprite row, in the order in which `drawRow` meets them. -/
def rowHits (vx vy : Byte) (row : Nat) (b : Byte) : List (Fin 64 × Fin 32) :=
  ((List.range 8).filter (spriteBit b)).map fun col => (pixelColumn vx col, pixelRow vy row)

/-- The pixels under the 1 bits of a sprite, the first of `bytes` being row `row`. -/
def spriteHits (vx vy : Byte) : Nat → List Byte → List (Fin 64 × Fin 32)
  | _, [] => []
  | row, b :: bytes => rowHits vx vy row b ++ spriteHits vx vy (row + 1) bytes

theorem drawRow_eq_foldl (vx vy : Byte) (row : Nat) (b : Byte) (c : Framebuffer × Bool) :
    drawRow vx vy row b c = (rowHits vx vy row b).foldl flipPixel c := by
  rw [rowHits, List.foldl_map, List.foldl_filter]
  rfl

/-- A draw flips the pixels under the sprite one after the other. -/
theorem drawRows_eq_foldl (vx vy : Byte) (row : Nat) (bytes : List Byte)
    (c : Framebuffer × Bool) :
    drawRows vx vy row bytes c = (spriteHits vx vy row bytes).foldl flipPixel c := by
  induction bytes generalizing row c with
  | nil => rfl
  | cons b bytes ih => rw [drawRows, spriteHits, List.foldl_append, ← drawRow_eq_foldl, ih]

theorem mem_rowHits {vx vy b : Byte} {row : Nat} {p : Fin 64 × Fin 32} :
    p ∈ rowHits vx vy row b ↔
      ∃ col, col < 8 ∧ spriteBit b col = true ∧ (pixelColumn vx col, pixelRow vy row) = p := by
  simp [rowHits, and_assoc]

theorem mem_spriteHits {vx vy : Byte} {row : Nat} {bytes : List Byte} {p : Fin 64 × Fin 32} :
    p ∈ spriteHits vx vy row bytes ↔
      ∃ k b, bytes[k]? = some b ∧ p ∈ rowHits vx vy (row + k) b := by
  induction bytes generalizing row with
  | nil => simp [spriteHits]
  | cons b bytes ih =>
    rw [spriteHits, List.mem_append, ih]
    constructor
    · rintro (h | ⟨k, b', hb, h⟩)
      · exact ⟨0, b, rfl, h⟩
      · exact ⟨k + 1, b', hb, by rwa [← Nat.add_assoc, Nat.add_right_comm]⟩
    · rintro ⟨k, b', hb, h⟩
      cases k with
      | zero =>
        obtain rfl : b = b' := Option.some.inj hb
        exact .inl h
      | succ k => exact .inr ⟨k, b', hb, by rwa [Nat.add_right_comm, Nat.add_assoc]⟩

/-! ### No pixel is flipped twice -/

/-- Eight columns do not wrap onto each other (R152). -/
theorem pixelColumn_injOn {vx : Byte} {i j : Nat} (hi : i < 8) (hj : j < 8)
    (h : pixelColumn vx i = pixelColumn vx j) : i = j := by
  have hval : (vx.toNat + i) % 64 = (vx.toNat + j) % 64 := congrArg Fin.val h
  omega

/-- Thirty-two rows do not wrap onto each other (R152). -/
theorem pixelRow_ne {vy : Byte} {i j : Nat} (hlt : i < j) (hj : j < i + 32) :
    pixelRow vy i ≠ pixelRow vy j := by
  intro h
  have hval : (vy.toNat + i) % 32 = (vy.toNat + j) % 32 := congrArg Fin.val h
  omega

theorem nodup_rowHits (vx vy : Byte) (row : Nat) (b : Byte) : (rowHits vx vy row b).Nodup := by
  refine (List.nodup_range.filter _).map_on fun i hi j hj h => ?_
  have hlt {k : Nat} (hk : k ∈ (List.range 8).filter (spriteBit b)) : k < 8 :=
    List.mem_range.1 (List.mem_of_mem_filter hk)
  exact pixelColumn_injOn (hlt hi) (hlt hj) (congrArg Prod.fst h)

/-- No two 1 bits of a sprite of at most 32 rows fall on the same pixel. -/
theorem nodup_spriteHits (vx vy : Byte) (row : Nat) {bytes : List Byte} (h : bytes.length ≤ 32) :
    (spriteHits vx vy row bytes).Nodup := by
  induction bytes generalizing row with
  | nil => exact List.nodup_nil
  | cons b bytes ih =>
    rw [List.length_cons] at h
    refine (nodup_rowHits vx vy row b).append (ih _ (by omega)) fun p hp hp' => ?_
    obtain ⟨k, b', hb, hp'⟩ := mem_spriteHits.1 hp'
    obtain ⟨hk, -⟩ := List.getElem?_eq_some_iff.1 hb
    obtain ⟨_, -, -, hrow⟩ := mem_rowHits.1 hp
    obtain ⟨_, -, -, hrow'⟩ := mem_rowHits.1 hp'
    exact pixelRow_ne (by omega) (by omega) (congrArg Prod.snd (hrow.trans hrow'.symm))

/-! ### What flipping a list of pixels does -/

theorem pixel_flipPixel_self (c : Framebuffer × Bool) (p : Fin 64 × Fin 32) :
    (flipPixel c p).1.pixel p.1 p.2 = !c.1.pixel p.1 p.2 := by
  simp [flipPixel, Framebuffer.pixel_toggle]

theorem pixel_flipPixel_ne (c : Framebuffer × Bool) {p q : Fin 64 × Fin 32} (h : q ≠ p) :
    (flipPixel c p).1.pixel q.1 q.2 = c.1.pixel q.1 q.2 := by
  have hpq : (decide (q.1 = p.1) && decide (q.2 = p.2)) = false := by
    simpa [Prod.ext_iff] using h
  rw [flipPixel, Framebuffer.pixel_toggle, hpq, Bool.xor_false]

/-- Pixels that are not flipped are as before. -/
theorem pixel_foldl_of_not_mem {hits : List (Fin 64 × Fin 32)} (c : Framebuffer × Bool)
    {q : Fin 64 × Fin 32} (hq : q ∉ hits) :
    (hits.foldl flipPixel c).1.pixel q.1 q.2 = c.1.pixel q.1 q.2 := by
  induction hits generalizing c with
  | nil => rfl
  | cons p hits ih =>
    obtain ⟨hne, hq⟩ := not_or.1 (mt List.mem_cons.2 hq)
    exact (ih _ hq).trans (pixel_flipPixel_ne c hne)

/-- Pixels that are flipped once are changed. -/
theorem pixel_foldl_of_mem {hits : List (Fin 64 × Fin 32)} (c : Framebuffer × Bool)
    (hnodup : hits.Nodup) {q : Fin 64 × Fin 32} (hq : q ∈ hits) :
    (hits.foldl flipPixel c).1.pixel q.1 q.2 = !c.1.pixel q.1 q.2 := by
  induction hits generalizing c with
  | nil => exact absurd hq List.not_mem_nil
  | cons p hits ih =>
    obtain ⟨hp, hnodup⟩ := List.nodup_cons.1 hnodup
    obtain rfl | hq := List.mem_cons.1 hq
    · exact (pixel_foldl_of_not_mem _ hp).trans (pixel_flipPixel_self c q)
    · rw [List.foldl_cons, ih _ hnodup hq, pixel_flipPixel_ne c (ne_of_mem_of_not_mem hq hp)]

/-- The collision: a pixel that is flipped was on at the start. -/
theorem collision_foldl {hits : List (Fin 64 × Fin 32)} (c : Framebuffer × Bool)
    (hnodup : hits.Nodup) :
    (hits.foldl flipPixel c).2 = true ↔ c.2 = true ∨ ∃ q ∈ hits, c.1.pixel q.1 q.2 = true := by
  induction hits generalizing c with
  | nil => simp
  | cons p hits ih =>
    obtain ⟨hp, hnodup⟩ := List.nodup_cons.1 hnodup
    have hrest : (∃ q ∈ hits, (flipPixel c p).1.pixel q.1 q.2 = true) ↔
        ∃ q ∈ hits, c.1.pixel q.1 q.2 = true :=
      exists_congr fun q => and_congr_right fun hq => by
        rw [pixel_flipPixel_ne c (ne_of_mem_of_not_mem hq hp)]
    rw [List.foldl_cons, ih _ hnodup, hrest, List.exists_mem_cons_iff, ← or_assoc]
    exact or_congr_left Bool.or_eq_true_iff

/-! ### DRW (R151) -/

/-- The sprite of DXYN in `s`: the bytes of its rows. -/
def State.spriteBytes (s : State) (n : Nat) : List Byte :=
  (List.range n).map fun row => s.byteAt (s.index.toNat + row)

@[simp] theorem State.spriteBytes_length (s : State) (n : Nat) : (s.spriteBytes n).length = n := by
  simp [State.spriteBytes]

/-- The pixels of the fold are those of the statements. -/
theorem mem_spriteHits_spriteBytes {s : State} {vx vy : Byte} {n : Nat} {px : Fin 64}
    {py : Fin 32} :
    (px, py) ∈ spriteHits vx vy 0 (s.spriteBytes n) ↔ SpriteOn s vx vy n px py := by
  rw [mem_spriteHits]
  constructor
  · rintro ⟨row, b, hb, hp⟩
    obtain ⟨hrow, rfl⟩ := List.getElem?_eq_some_iff.1 hb
    obtain ⟨col, hcol, hbit, hpixel⟩ := mem_rowHits.1 hp
    rw [s.spriteBytes_length] at hrow
    rw [Nat.zero_add] at hpixel
    refine ⟨row, col, hrow, hcol, congrArg (·.1.val) hpixel, congrArg (·.2.val) hpixel, ?_⟩
    simpa [State.spriteBytes, spriteBit] using hbit
  · rintro ⟨row, col, hrow, hcol, hx, hy, hbit⟩
    refine ⟨row, s.byteAt (s.index.toNat + row), by simp [State.spriteBytes, hrow], ?_⟩
    rw [Nat.zero_add]
    exact mem_rowHits.2 ⟨col, hcol, hbit, Prod.ext (Fin.ext hx) (Fin.ext hy)⟩

/-- A draw whose rows all exist is one fold over the pixels under the sprite. -/
theorem execDrw_eq_foldl (x y : Reg) {n : Nat} {s : State}
    (hrows : n = 0 ∨ s.index.toNat + n - 1 ≤ 0xFFF) :
    execDrw x y n s = .next (s.afterDraw
      ((spriteHits (s.getV x) (s.getV y) 0 (s.spriteBytes n)).foldl flipPixel (s.fb, false))) := by
  obtain ⟨-, hread⟩ | ⟨hn, hout, -⟩ := s.readBytes_cases s.index.toNat n
  · rw [execDrw_of_some x y hread, drawRows_eq_foldl]
    rfl
  · omega

@[simp] theorem State.afterDraw_fb (s : State) (c : Framebuffer × Bool) :
    (s.afterDraw c).fb = c.1 := rfl

@[simp] theorem State.afterDraw_flag (s : State) (c : Framebuffer × Bool) :
    (s.afterDraw c).getV regF = flagByte c.2 :=
  (s.setFb c.1).getV_setV_same regF (flagByte c.2)

theorem frameExcept_afterDraw (s : State) (c : Framebuffer × Bool) :
    FrameExcept [regF] [.framebuffer] s (s.afterDraw c) :=
  ((frameExcept_self _ _ s).setFb c.1 (by simp)).setV (flagByte c.2) (by simp)

/-- Settles O35: the pixels under the sprite are flipped once each, and the collision is read off the
framebuffer before the draw. -/
theorem drwXorsTheSprite : Obligations.DrwXorsTheSprite := by
  intro x y n s hn hrows
  have hnodup : (spriteHits (s.getV x) (s.getV y) 0 (s.spriteBytes n)).Nodup :=
    nodup_spriteHits _ _ 0 (by rw [s.spriteBytes_length]; omega)
  have hflag : ((spriteHits (s.getV x) (s.getV y) 0 (s.spriteBytes n)).foldl flipPixel
      (s.fb, false)).2 = true ↔
      ∃ px py, s.fb.pixel px py = true ∧ SpriteOn s (s.getV x) (s.getV y) n px py := by
    rw [collision_foldl _ hnodup]
    simp [mem_spriteHits_spriteBytes, and_comm]
  refine ⟨_, execDrw_eq_foldl x y hrows, fun px py => ?_, fun hhit => ?_, fun hmiss => ?_,
    frameExcept_afterDraw s _⟩
  · rw [State.afterDraw_fb, ← mem_spriteHits_spriteBytes]
    by_cases hp : (px, py) ∈ spriteHits (s.getV x) (s.getV y) 0 (s.spriteBytes n)
    · simp [pixel_foldl_of_mem (s.fb, false) hnodup hp, hp]
    · simp [pixel_foldl_of_not_mem (s.fb, false) hp, hp]
  · rw [State.afterDraw_flag, hflag.2 hhit]
    rfl
  · rw [State.afterDraw_flag, Bool.eq_false_iff.2 (mt hflag.1 hmiss)]
    rfl

/-! ### Drawing twice (R151) -/

/-- States that read alike and have the same I have the same sprite, as far as its rows exist. -/
theorem SpriteOn.congr {s r : State} {n : Nat} (hindex : r.index = s.index)
    (hmem : ∀ a, r.memRead a = s.memRead a) (hrows : n = 0 ∨ s.index.toNat + n - 1 ≤ 0xFFF)
    (vx vy : Byte) (px : Fin 64) (py : Fin 32) :
    SpriteOn r vx vy n px py ↔ SpriteOn s vx vy n px py := by
  have hbyte {row : Nat} (hrow : row < n) :
      r.byteAt (r.index.toNat + row) = s.byteAt (s.index.toNat + row) := by
    have hle : s.index.toNat + row ≤ 0xFFF := by omega
    rw [hindex]
    exact (State.memRead_eq_some_iff.1 ((hmem _).trans (State.memRead_eq_some_iff.2 ⟨hle, rfl⟩))).2
  refine exists_congr fun row => exists_congr fun col => and_congr_right fun hrow => ?_
  rw [hbyte hrow]

/-- Settles O36, from O35 for both draws: a pixel under the sprite changes twice, and it was turned on
by the first draw exactly when the second finds it on. -/
theorem drawingTwiceRestoresTheScreen : Obligations.DrawingTwiceRestoresTheScreen := by
  intro x y n s t r hn hrows hexec hfb hx hy hindex hmem
  obtain ⟨hfirst, -⟩ := (drwXorsTheSprite x y n s hn hrows).of_exec hexec
  obtain ⟨u, hu, hsecond, hcollide, hclear, hframe⟩ :=
    drwXorsTheSprite x y n r hn (hindex ▸ hrows)
  simp only [hfb, hx, hy, SpriteOn.congr hindex hmem hrows] at hsecond hcollide hclear
  have hturned : (∃ px py, t.fb.pixel px py = true ∧ SpriteOn s (s.getV x) (s.getV y) n px py) ↔
      ∃ px py, s.fb.pixel px py = false ∧ t.fb.pixel px py = true := by
    refine exists_congr fun px => exists_congr fun py => ?_
    rw [← Bool.not_eq_true, hfirst]
    tauto
  refine ⟨u, hu, fun px py => ?_, ⟨fun hflag => ?_, fun h => hcollide (hturned.2 h)⟩, hframe⟩
  · rw [Bool.eq_iff_iff, hsecond, hfirst]
    tauto
  · by_contra hnone
    have hzero := hclear (mt hturned.1 hnone)
    rw [hflag] at hzero
    exact absurd hzero (by decide)

end Sys2Proof.Machine

/-!
PROOFS. The statements of spec/46_keys_timers.md. `lowestPressed_eq_some` is the scan of the key matrix,
and `tick_result` says that a tick answers what the latch it leaves says, from any state.
-/
namespace Sys2Proof.Machine

/-! ### The wait for a key (R162) -/

/-- A pressed key below which none is pressed is the one the scan finds. -/
theorem lowestPressed_eq_some {keys : Vector Bool 16} {k : Reg} (hk : keys[k.val] = true)
    (hlow : ∀ j : Reg, j < k → keys[j.val] = false) : lowestPressed keys = some k := by
  refine List.find?_eq_some_iff_getElem.2 ⟨hk, k.val, by simp, by simp, fun j hj => ?_⟩
  simpa using hlow ⟨j, hj.trans k.isLt⟩ hj

/-- The number of a key fits a register. -/
theorem key_toNat (k : Reg) : (BitVec.ofNat 8 k.val).toNat = k.val :=
  Nat.mod_eq_of_lt (k.isLt.trans (by decide))

/-- A tick of LD VX, K with no key pressed steps to the state it began from: the rewind undoes the
advance. -/
theorem step_of_waiting {s : State} {x : Reg} (hs : Running s) (hi : instrAt s = some (.ldKey x))
    (hnone : ∀ j : Reg, s.keys[j.val] = false) : step s = .next s :=
  calc step s
      = execLdKey x s.advance := step_of_instrAt hs hi
    _ = .next s.advance.rewind := execLdKey_of_none x (lowestPressed_none.2 hnone)
    _ = .next s := congrArg Host.Outcome.next s.rewind_advance

theorem tickResult_of_running {s : State} (hs : Running s) : tickResult s = .ok :=
  if_neg (Bool.eq_false_iff.1 hs)

/-- Settles O39: the scan finds the lowest pressed key or none, and a waiting tick leaves an engine
that still runs. -/
theorem keyWaitRewindsOrTakesTheLowestKey : Obligations.KeyWaitRewindsOrTakesTheLowestKey := by
  refine ⟨fun x s k hk hlow => ?_, fun x s hnone => ?_, fun x s hrun hi hnone => ?_⟩
  · obtain ⟨hval, hframe⟩ := s.setV_writes x (BitVec.ofNat 8 k.val)
    exact ⟨_, execLdKey_of_some x (lowestPressed_eq_some hk hlow),
      (congrArg BitVec.toNat hval).trans (key_toNat k), hframe⟩
  · exact ⟨_, execLdKey_of_none x (lowestPressed_none.2 hnone), rfl, frameExcept_setPc s _⟩
  · calc tick s
        = (s, tickResult s) := tick_of_next (step_of_waiting hrun hi hnone)
      _ = (s, .ok) := by rw [tickResult_of_running hrun]

/-! ### The key skips (R160, R161, R191) -/

/-- Settles O38: the value in `V[X]` is a key index, and the skip tests that key, or it is above 15,
and the instruction takes its fault. -/
theorem keySkipsTestTheKeyLevel : Obligations.KeySkipsTestTheKeyLevel := by
  refine ⟨fun x k s hk => ?_, fun x s hgt => ?_⟩
  · have hlt : (s.getV x).toNat < 16 := hk ▸ k.isLt
    simp only [← hk]
    exact ⟨⟨_, execSkp_of_lt hlt, s.skipIf_moves_pc id id⟩,
      ⟨_, execSknp_of_lt hlt, s.skipIf_moves_pc (by simp) (by simp)⟩⟩
  · have hnot : ¬ (s.getV x).toNat < 16 := by omega
    exact ⟨⟨_, execSkp_of_not_lt hnot, s.raise_faultEntered _ _ _⟩,
      ⟨_, execSknp_of_not_lt hnot, s.raise_faultEntered _ _ _⟩⟩

/-! ### The timers (R163 to R165) -/

/-- A frame excepts no more than the pieces that differ. -/
theorem FrameExcept.narrow {regs : List Reg} {pieces pieces' : List Piece} {s t : State}
    (h : FrameExcept regs pieces s t) (hsame : ∀ p ∈ pieces, p ∉ pieces' → p.same s t) :
    FrameExcept regs pieces' s t := by
  refine ⟨h.1, fun p hp => ?_⟩
  by_cases hmem : p ∈ pieces
  · exact hsame p hmem hp
  · exact h.2 p hmem

/-- A state and the same state with another DT differ in DT alone. -/
theorem frameExcept_setDt (s : State) (b : Byte) : FrameExcept [] [.delayTimer] s (s.setDt b) :=
  FrameExcept.narrow (t := s.setDt b) (frameExcept_withHostPieces s s.mem s.keys b s.st)
    (by simp [Piece.same])

/-- A state and the same state with another ST differ in ST alone. -/
theorem frameExcept_setSt (s : State) (b : Byte) : FrameExcept [] [.soundTimer] s (s.setSt b) :=
  FrameExcept.narrow (t := s.setSt b) (frameExcept_withHostPieces s s.mem s.keys s.dt b)
    (by simp [Piece.same])

/-- A running engine's step answers a next state, whether it faults or not (R90). -/
theorem exists_step_of_running {s : State} (hs : Running s) : ∃ t, step s = .next t := by
  obtain ⟨hhalt, -⟩ | ⟨-, -, h⟩ | ⟨_, _, -, -, -, h⟩ | ⟨_, i, -, -, -, h⟩ := step_cases s
  · exact absurd hhalt (Bool.eq_false_iff.1 hs)
  · exact ⟨_, h⟩
  · exact ⟨_, h⟩
  · obtain ⟨-, hraise⟩ | ⟨-, t, ht, -⟩ := executesOrFaults i s
    · exact ⟨_, h.trans hraise⟩
    · exact ⟨t, h.trans ht⟩

/-- The result of a tick is read off the latch in the state it leaves (R90, R95). -/
theorem tick_result (s : State) : (tick s).2 = tickResult (tick s).1 := by
  cases hs : s.halted with
  | true =>
    rw [tick_of_halted hs]
    exact (if_pos hs).symm
  | false =>
    obtain ⟨t, ht⟩ := exists_step_of_running hs
    rw [tick_of_next ht]

/-- Such a result is the latched fault or `Ok`. -/
theorem tickResult_ne_tone (s : State) (on : Bool) : tickResult s ≠ .tone on := by
  unfold tickResult
  split <;> nofun

/-- Settles O40: each of the three is one write, and what a tick answers is a fault or `Ok`. -/
theorem timerInstructionsMoveOneByte : Obligations.TimerInstructionsMoveOneByte :=
  ⟨fun x s => ⟨_, rfl, s.setV_writes x s.dt⟩,
    fun _ s => ⟨_, rfl, rfl, frameExcept_setDt s _⟩,
    fun _ s => ⟨_, rfl, rfl, frameExcept_setSt s _⟩,
    fun s on => tick_result s ▸ tickResult_ne_tone (tick s).1 on⟩

end Sys2Proof.Machine

/-!
PROOFS. The statements of spec/47_host_operations.md. `decrement_toNat` is the countdown of one timer and
`responses_tickTimers_succ` the results of a run of timer ticks, one tick at a time; each other operation
has one equation per case.
-/
namespace Sys2Proof.Machine

/-! ### The timers (R175) -/

/-- A timer goes down by 1 and stops at 0, as the subtraction of natural numbers does. -/
theorem decrement_toNat (b : Byte) : (decrement b).toNat = b.toNat - 1 := by
  unfold decrement
  split
  · next h => exact BitVec.toNat_sub_of_le (BitVec.le_def.2 h)
  · next h => omega

theorem decrement_of_pos {b : Byte} (h : b.toNat > 0) : (decrement b).toNat + 1 = b.toNat := by
  rw [decrement_toNat, Nat.sub_add_cancel h]

theorem decrement_of_zero {b : Byte} (h : b.toNat = 0) : (decrement b).toNat = 0 := by
  rw [decrement_toNat, h]

/-- A timer tick, its tone read off the number in ST. -/
theorem applyOp_tickTimers (s : State) :
    applyOp .tickTimers s =
      ((s.setDt (decrement s.dt)).setSt (decrement s.st), .tone (decide (s.st.toNat = 1))) := by
  have htone : (s.st == 1) = decide (s.st.toNat = 1) :=
    decide_eq_decide.2 BitVec.toNat_inj.symm
  exact congrArg (fun on => (_, Response.tone on)) htone

/-- A state and the same state with other timers differ in the timers alone. -/
theorem frameExcept_setDt_setSt (s : State) (d e : Byte) :
    FrameExcept [] [.delayTimer, .soundTimer] s ((s.setDt d).setSt e) :=
  FrameExcept.narrow (t := (s.setDt d).setSt e) (frameExcept_withHostPieces s s.mem s.keys d e)
    (by simp [Piece.same])

/-- Settles O41: both timers go down by 1 or stay at 0, and nothing else is written. -/
theorem timerTickDecrements : Obligations.TimerTickDecrements := fun s =>
  ⟨_, applyOp_tickTimers s, decrement_of_pos, decrement_of_zero, decrement_of_pos, decrement_of_zero,
    frameExcept_setDt_setSt s _ _⟩

/-! ### The tone (R176) -/

/-- The first of a run of timer ticks answers for ST as it stands, the others for ST one lower. -/
theorem responses_tickTimers_succ (s : State) (k : Nat) :
    ∃ t : State, t.st.toNat = s.st.toNat - 1 ∧
      responses (List.replicate (k + 1) .tickTimers) s =
        .tone (decide (s.st.toNat = 1)) :: responses (List.replicate k .tickTimers) t :=
  ⟨(applyOp .tickTimers s).1, decrement_toNat s.st, by
    rw [List.replicate_succ, responses, applyOp_tickTimers]⟩

/-- Once ST is 0 no timer tick gives a tone. -/
theorem responses_tickTimers_of_zero {s : State} (h : s.st.toNat = 0) (m : Nat) :
    responses (List.replicate m .tickTimers) s = List.replicate m (.tone false) := by
  induction m generalizing s with
  | zero => rfl
  | succ m ih =>
    obtain ⟨t, ht, hrun⟩ := responses_tickTimers_succ s m
    rw [hrun, ih (by omega), List.replicate_succ, h]
    rfl

/-- Settles O42, by induction on the countdown: the tick that finds ST at 1 gives the tone, each tick
before it finds ST higher, and each after it finds ST at 0. -/
theorem toneFiresOncePerCountdown : Obligations.ToneFiresOncePerCountdown := by
  intro s n m hst
  induction n generalizing s with
  | zero =>
    obtain ⟨t, ht, hrun⟩ := responses_tickTimers_succ s m
    rw [show 0 + 1 + m = m + 1 by omega, hrun, responses_tickTimers_of_zero (by omega), hst]
    rfl
  | succ n ih =>
    obtain ⟨t, ht, hrun⟩ := responses_tickTimers_succ s (n + 1 + m)
    have hsilent : decide (s.st.toNat = 1) = false := decide_eq_false (by omega)
    rw [show n + 1 + 1 + m = n + 1 + m + 1 by omega, hrun, ih t (by omega), hsilent]
    rfl

/-! ### Loading a ROM (R172) -/

theorem applyOp_loadRom_of_le {bytes : List Byte} (s : State) (h : bytes.length ≤ Config.romMax) :
    applyOp (.loadRom bytes) s = (s.memWriteAll Config.romBase bytes, .ok) :=
  if_neg (Nat.not_lt.2 h)

theorem applyOp_loadRom_of_gt {bytes : List Byte} (s : State) (h : bytes.length > Config.romMax) :
    applyOp (.loadRom bytes) s = (s, .error .romTooLarge) :=
  if_pos h

/-- Storing bytes changes memory alone. -/
theorem frameExcept_memWriteAll (s : State) (a : Nat) (bytes : List Byte) :
    FrameExcept [] [.memory] s (s.memWriteAll a bytes) := by
  obtain ⟨m, hm⟩ := s.memWriteAll_eq bytes a
  exact hm ▸ frameExcept_setMem s m

/-- Settles O43: an image of at most 3584 bytes ends within memory, so each of its bytes is stored. -/
theorem loadRomCopiesOrRejects : Obligations.LoadRomCopiesOrRejects := by
  intro bytes s hs
  refine ⟨fun hle => ⟨_, applyOp_loadRom_of_le s hle, fun k hk => ?_, fun a hout => ?_,
    frameExcept_memWriteAll s _ bytes⟩, applyOp_loadRom_of_gt s⟩
  · have hfit : Config.romBase + bytes.length ≤ Config.memSize := Nat.add_le_add_left hle 0x200
    exact State.memRead_eq_some_iff.2 ⟨by omega, s.memWriteAll_byteAt_inside bytes hs hfit hk⟩
  · exact State.memRead_of_byteAt (s.memWriteAll_byteAt_outside bytes hs hout)

/-! ### Keys (R173) -/

theorem applyOp_keyPress_of_lt {k : Nat} (h : k < 16) (p : Bool) (s : State) :
    applyOp (.keyPress k p) s = (s.setKeys (s.keys.set k p), .ok) :=
  dif_pos h

theorem applyOp_keyPress_of_gt {k : Nat} (h : k > 15) (p : Bool) (s : State) :
    applyOp (.keyPress k p) s = (s, .error .indexOutOfRange) :=
  dif_neg (Nat.not_lt.2 h)

/-- A state and the same state with other keys differ in the keys alone. -/
theorem frameExcept_setKeys (s : State) (k : Vector Bool 16) :
    FrameExcept [] [.keys] s (s.setKeys k) :=
  FrameExcept.narrow (t := s.setKeys k) (frameExcept_withHostPieces s s.mem k s.dt s.st)
    (by simp [Piece.same])

/-- Settles O44: an accepted key is one entry of the key matrix set. -/
theorem keyPressWritesOneKey : Obligations.KeyPressWritesOneKey := by
  refine ⟨fun k p s => ⟨_, applyOp_keyPress_of_lt k.isLt p s, ?_, fun j hj => ?_,
    frameExcept_setKeys s _⟩, fun k p s hk => applyOp_keyPress_of_gt hk p s⟩
  · exact Vector.getElem_set_self k.isLt
  · exact Vector.getElem_set_ne k.isLt j.isLt fun e => hj (Fin.ext e.symm)

/-! ### Reading the display (R174) -/

/-- The row-major numbering is undone by the remainder and the quotient of 64 (R34). -/
theorem Framebuffer.entry_rowMajor (f : Framebuffer) (x : Fin 64) (y : Fin 32)
    (h : x.val + 64 * y.val < 2048) : f.entry ⟨x.val + 64 * y.val, h⟩ = f.pixel x y := by
  have hcol : (x.val + 64 * y.val) % 64 = x.val := by omega
  have hrow : (x.val + 64 * y.val) / 64 = y.val := by omega
  simp only [Framebuffer.entry, hcol, hrow]

theorem displayEntries_length (f : Framebuffer) : (displayEntries f).length = 2048 := by
  simp [displayEntries]

/-- The display read out holds entry `k` of the framebuffer at place `k`. -/
theorem displayEntries_getElem? (f : Framebuffer) (k : Fin 2048) :
    (displayEntries f)[k.val]? = some (f.entry k) := by
  simp [displayEntries]

/-- Settles O45: the entry numbered `x + 64 y` is the pixel in column `x` of row `y`. -/
theorem getDisplayReadsTheFramebuffer : Obligations.GetDisplayReadsTheFramebuffer := by
  refine fun s => ⟨displayEntries s.fb, rfl, displayEntries_length s.fb, fun x y => ?_⟩
  have hlt : x.val + 64 * y.val < 2048 := by omega
  calc (displayEntries s.fb)[x.val + 64 * y.val]?
      = some (s.fb.entry ⟨x.val + 64 * y.val, hlt⟩) := displayEntries_getElem? s.fb ⟨_, hlt⟩
    _ = some (s.fb.pixel x y) := congrArg some (s.fb.entry_rowMajor x y hlt)

end Sys2Proof.Machine

/-!
PROOFS. The statements of spec/60_exceptions.md and spec/70_reset_and_hazards.md. `step_of_running`
says what a tick of a running engine leaves in each of its three endings, with the cause that
`firstFault` gives and the latch in full; the statements about faults are read off it.
-/
namespace Sys2Proof.Machine

/-! ### Sameness and frames one after the other -/

theorem Piece.same_trans {p : Piece} {s t u : State} (h : p.same s t) (h' : p.same t u) :
    p.same s u := by
  cases p with
  | memory => exact fun a => (h' a).trans (h a)
  | framebuffer => exact fun x y => (h' x y).trans (h x y)
  | latch =>
    obtain ⟨hhalted, hcause, haddr, hop⟩ := h
    obtain ⟨hhalted', hcause', haddr', hop'⟩ := h'
    exact ⟨hhalted'.trans hhalted, hcause'.trans hcause, haddr'.trans haddr, hop'.trans hop⟩
  | pc | index | stackEntries | stackPointer | keys | delayTimer | soundTimer | font | draws =>
    exact h'.trans h

theorem FrameExcept.trans {regs : List Reg} {pieces : List Piece} {s t u : State}
    (h : FrameExcept regs pieces s t) (h' : FrameExcept regs pieces t u) :
    FrameExcept regs pieces s u :=
  ⟨fun r hr => (h'.1 r hr).trans (h.1 r hr), fun p hp => Piece.same_trans (h.2 p hp) (h'.2 p hp)⟩

/-- A fault entered after a move of pc differs from the state before it in the latch and pc alone. -/
theorem FaultEntered.frameExcept_of_setPc {cause : FaultCause} {addr op w : Word} {s t : State}
    (h : FaultEntered cause addr op (s.setPc w) t) : FrameExcept [] [.latch, .pc] s t := by
  obtain ⟨-, -, -, -, hframe⟩ := h
  exact ((frameExcept_setPc s w).narrow (by simp)).trans (hframe.narrow (by simp))

/-! ### The first fault of a tick (R193) -/

theorem firstFault_of_fetch_none {s : State} (hf : s.fetch = none) :
    firstFault s = .memoryOutOfRange := by
  obtain ⟨-, hsome⟩ | ⟨hge, -⟩ := s.fetch_cases
  · rw [hf] at hsome
    cases hsome
  · exact if_pos hge

/-- A tick that has fetched took no fault in its fetch stage. -/
theorem not_pc_ge_of_fetch {s : State} {op : Word} (hf : s.fetch = some op) :
    ¬ s.pc.toNat ≥ 0x0FFF :=
  Nat.not_le.2 (Nat.lt_succ_of_le (pc_le_of_fetch hf))

theorem instrAt_of_illegal {s : State} {op : Word} {g : IllegalGroup} (hf : s.fetch = some op)
    (hd : decode op = .illegal g) : instrAt s = none := by
  simp only [instrAt, hf, hd]

theorem firstFault_of_illegal {s : State} {op : Word} {g : IllegalGroup} (hf : s.fetch = some op)
    (hd : decode op = .illegal g) : firstFault s = .invalidOpcode := by
  simp only [firstFault, if_neg (not_pc_ge_of_fetch hf), instrAt_of_illegal hf hd]

theorem firstFault_of_instr {s : State} {op : Word} {i : Instr} (hf : s.fetch = some op)
    (hd : decode op = .instr i) : firstFault s = executeFault i s := by
  simp only [firstFault, if_neg (not_pc_ge_of_fetch hf), instrAt_of_decode hf hd]

/-! ### The latch of a faulting tick (R186) -/

/-- The address of the instruction is found again once pc is advanced. -/
theorem State.advance_pc_sub_two (s : State) : s.advance.pc - 2 = s.pc :=
  BitVec.add_sub_cancel s.pc 2

theorem raiseInDecode_advance (op : Word) (s : State) :
    s.advance.raiseInDecode op = s.advance.raise .invalidOpcode s.pc op := by
  rw [State.raiseInDecode, s.advance_pc_sub_two]

theorem raiseInExecute_advance (cause : FaultCause) (i : Instr) (s : State) :
    raiseInExecute cause i s.advance = .next (s.advance.raise cause s.pc (encode i)) := by
  rw [raiseInExecute, s.advance_pc_sub_two]

/-- The three endings of a running engine's tick: a fault in the fetch stage, a later fault with the
fetched opcode and pc advanced, or none, and the engine runs on. -/
theorem step_of_running {s : State} (hs : Running s) :
    (s.fetch = none ∧ firstFault s = .memoryOutOfRange ∧
      step s = .next (s.raise .memoryOutOfRange s.pc 0)) ∨
    (∃ op, s.fetch = some op ∧ firstFault s ≠ .noFault ∧
      step s = .next (s.advance.raise (firstFault s) s.pc op)) ∨
    (firstFault s = .noFault ∧ ∃ t, step s = .next t ∧ Running t) := by
  obtain ⟨hhalt, -⟩ | ⟨-, hf, hstep⟩ | ⟨op, g, -, hf, hd, hstep⟩ | ⟨op, i, -, hf, hd, hstep⟩ :=
    step_cases s
  · exact absurd hhalt (Bool.eq_false_iff.1 hs)
  · exact .inl ⟨hf, firstFault_of_fetch_none hf, hstep⟩
  · have hfirst := firstFault_of_illegal hf hd
    rw [raiseInDecode_advance, ← hfirst] at hstep
    exact .inr (.inl ⟨op, hf, by simp [hfirst], hstep⟩)
  · have hfirst := firstFault_of_instr hf hd
    obtain ⟨-, rfl⟩ := encodeOfDecode op i hd
    obtain ⟨hne, hraise⟩ | ⟨hnone, t, ht, hdone⟩ := executesOrFaults i s
    · rw [hraise, raiseInExecute_advance, ← hfirst] at hstep
      exact .inr (.inl ⟨_, hf, hfirst ▸ hne, hstep⟩)
    · exact .inr (.inr ⟨hfirst.trans hnone, t, hstep.trans ht, hdone.running hs⟩)

/-- Settles O8, by the three endings of a tick. -/
theorem tickRaisesTheFirstFaultOnly : Obligations.TickRaisesTheFirstFaultOnly := by
  intro s hs
  obtain ⟨-, hfirst, hstep⟩ | ⟨op, -, hne, hstep⟩ | ⟨hnone, t, hstep, hrun⟩ := step_of_running hs
  · exact ⟨_, hstep, ⟨fun _ => by simp [hfirst], fun _ => rfl⟩, fun _ => hfirst.symm⟩
  · exact ⟨_, hstep, ⟨fun _ => hne, fun _ => rfl⟩, fun _ => rfl⟩
  · have hnot : ¬ t.halted = true := Bool.eq_false_iff.1 hrun
    exact ⟨t, hstep, ⟨fun h => absurd h hnot, fun h => absurd hnone h⟩, fun h => absurd h hnot⟩

/-- A tick that leaves the engine halted answers the fault it has latched (R90, R186). -/
theorem applyOp_tick_of_fault {s t : State} (h : step s = .next t) (ht : t.halted = true) :
    applyOp .tick s = (t, .fault t.faultCause) :=
  (tick_of_next h).trans (congrArg (t, ·) (if_pos ht))

/-- Settles O7: of the three endings of a tick, the two that leave the engine halted. -/
theorem faultsArePrecise : Obligations.FaultsArePrecise := by
  intro s t hs h hhalt
  have htick := applyOp_tick_of_fault h hhalt
  obtain ⟨hf, -, hstep⟩ | ⟨op, hf, hne, hstep⟩ | ⟨-, t', hstep, hrun⟩ := step_of_running hs
  · obtain rfl := Host.Outcome.next.inj (h.symm.trans hstep)
    exact ⟨((s.setPc s.pc).raise_faultEntered _ _ _).frameExcept_of_setPc, rfl,
      FaultCause.noConfusion, fun _ => ⟨rfl, rfl⟩, by simp [hf], htick⟩
  · obtain rfl := Host.Outcome.next.inj (h.symm.trans hstep)
    refine ⟨(s.advance.raise_faultEntered _ _ _).frameExcept_of_setPc, rfl, hne,
      fun hge => absurd hge (not_pc_ge_of_fetch hf), fun op' hf' => ?_, htick⟩
    obtain rfl := Option.some.inj (hf.symm.trans hf')
    exact ⟨rfl, rfl⟩
  · obtain rfl := Host.Outcome.next.inj (h.symm.trans hstep)
    exact absurd hhalt (Bool.eq_false_iff.1 hrun)

/-! ### A halted engine over any operations (R194) -/

/-- No operation but `reset` writes the latch of a halted engine. -/
theorem applyOp_latch {op : HostOp} {s : State} (hs : s.halted = true) (hreset : op ≠ .reset) :
    Piece.latch.same s (applyOp op s).1 := by
  by_cases htick : op = .tick
  · subst htick
    rw [applyOp, tick_of_halted hs]
    exact Piece.same_refl _ s
  · obtain ⟨m, k, d, e, h⟩ := applyOp_host_eq s htick hreset
    rw [h]
    exact ⟨rfl, rfl, rfl, rfl⟩

/-- Settles O6, by induction over the operations: each keeps the latch, and a tick answers the cause
that is latched. -/
theorem faultLatchIsSticky : Obligations.FaultLatchIsSticky := by
  intro ops
  induction ops with
  | nil => exact fun s _ _ => ⟨Piece.same_refl _ s, nofun⟩
  | cons op ops ih =>
    intro s hs hreset
    obtain ⟨hop, hops⟩ := not_or.1 (mt List.mem_cons.2 hreset)
    obtain ⟨hhalted, hcause, hentry⟩ := applyOp_latch hs (Ne.symm hop)
    obtain ⟨hlatch, hticks⟩ := ih (applyOp op s).1 (hhalted.trans hs) hops
    refine ⟨Piece.same_trans (p := .latch) ⟨hhalted, hcause, hentry⟩ hlatch, fun k hk => ?_⟩
    cases k with
    | zero =>
      obtain rfl : op = .tick := Option.some.inj hk
      exact congrArg (some ·.2) (tick_of_halted hs)
    | succ k => exact hcause ▸ hticks k hk

/-! ### The single faults (R187, R190, R192) -/

/-- A sprite row above 0xFFF is a fault of DRW (R151). -/
theorem execDrw_of_out (x y : Reg) {n : Nat} {s : State} (hn : n > 0)
    (hout : s.index.toNat + n - 1 > 0xFFF) :
    execDrw x y n s = raiseInExecute .memoryOutOfRange (.drw x y n) s := by
  obtain ⟨hok, -⟩ | ⟨-, -, hread⟩ := s.readBytes_cases s.index.toNat n
  · omega
  · exact execDrw_of_none x y hread

/-- A fetch at 0xFFF or above has no opcode (R91). -/
theorem State.fetch_of_ge {s : State} (h : s.pc.toNat ≥ 0xFFF) : s.fetch = none := by
  obtain ⟨hle, -⟩ | ⟨-, hf⟩ := s.fetch_cases
  · omega
  · exact hf

/-- Settles O3: the fetch finds no opcode, and DRW finds no bytes. -/
theorem accessOutsideMemoryFaults : Obligations.AccessOutsideMemoryFaults := by
  refine ⟨fun s hs hge => ?_, fun x y n s _ hn hout => ?_⟩
  · exact ⟨_, step_of_fetch_none hs (State.fetch_of_ge hge), s.raise_faultEntered _ _ _⟩
  · exact ⟨_, execDrw_of_out x y hn hout, s.raise_faultEntered _ _ _⟩

/-- Settles O4: a listed word is one the decoder rejects (O14). -/
theorem illegalOpcodesFault : Obligations.IllegalOpcodesFault := by
  intro s op hs hf hlisted
  obtain ⟨g, hd⟩ := (illegalOpcodesAreThoseListed op).2 hlisted
  have hstep := step_of_illegal hs hf hd
  rw [raiseInDecode_advance] at hstep
  exact ⟨_, hstep, rfl, s.advance.raise_faultEntered _ _ _⟩

/-- Settles O9: the refusing cases of the two operations. -/
theorem hostErrorsChangeNothing : Obligations.HostErrorsChangeNothing :=
  ⟨fun _ s => applyOp_loadRom_of_gt s, fun _ p s hk => applyOp_keyPress_of_gt hk p s⟩

/-! ### The first tick after a load (R216) -/

/-- A running engine whose memory holds the word of `i` at pc executes `i` (R55, R90). -/
theorem step_of_wordAt {s : State} {i : Instr} {w : Word} (hs : Running s) (hwf : i.wf = true)
    (hpc : s.pc = w) (hhi : s.memRead w.toNat = some ((encode i).extractLsb' 8 8))
    (hlo : s.memRead (w.toNat + 1) = some ((encode i).extractLsb' 0 8)) :
    step s = exec i (s.setPc (w + 2)) := by
  subst hpc
  exact tickRunsTheDecodedInstruction s i _ _ hs hhi hlo
    ((decodeBytes_bytesOfWord _).trans (decode_encode hwf))

/-- Settles O48: by O43 the image begins at 0x200, where reset puts pc, and the load moves neither pc
nor the latch. -/
theorem bootRunsTheFirstInstruction : Obligations.BootRunsTheFirstInstruction := by
  rintro s₀ i rest hwf hrest _ rfl
  have hlen : (bytesOfWord (encode i) ++ rest).length = 2 + rest.length := by
    rw [List.length_append, bytesOfWord_length]
  obtain ⟨t, hload, hbytes, -, -, hframe⟩ :=
    (loadRomCopiesOrRejects (bytesOfWord (encode i) ++ rest) s₀.doReset (Memory.wf_nil s₀.font)).1
      (by omega)
  have hrun : runOps [.reset, .loadRom (bytesOfWord (encode i) ++ rest)] s₀ = t :=
    congrArg Prod.fst hload
  have hpc : t.pc = 0x0200#16 := hframe .pc (by decide)
  obtain ⟨hrunning, -⟩ : Piece.latch.same s₀.doReset t := hframe .latch (by decide)
  rw [hrun]
  exact ⟨hpc, step_of_wordAt (w := 0x0200#16) hrunning hwf hpc (hbytes 0 (by omega))
    (hbytes 1 (by omega))⟩

end Sys2Proof.Machine
